-- ==== Sys2Proof/Word.lean ====
section
/-! DEFINITION. The word types of the engine (00_scope.md R6, R8). -/

namespace Sys2Proof

/-- A register, and a word of the chaining state (R6: every register is 32 bits wide). -/
abbrev Word := BitVec 32

/-- A byte of BUF (R10). -/
abbrev Byte := BitVec 8

/-- A byte address of the host aperture (R6: 16 bits). -/
abbrev HostAddr := BitVec 16

/-- A byte sequence (R10): finite, indexed from 0. -/
abbrev Bytes := List Byte

end Sys2Proof
end

