-- ==== Sys2Proof/Machine/ByteOrder.lean ====
section
/-! DEFINITION. Word and byte-sequence helpers: byte orders, rotations, block splitting (00_scope.md R9, R10). -/

namespace Sys2Proof.Machine

open Sys2Proof

/-- `ROTR(x, n)` for 0 < n < 32 (R9). -/
def rotr (x : Word) (n : Nat) : Word := (x >>> n) ||| (x <<< (32 - n))

/-- `ROTL(x, n)` is `ROTR(x, 32 - n)` (R9). -/
def rotl (x : Word) (n : Nat) : Word := rotr x (32 - n)

/-- The 32-bit value of four bytes, most significant first (R10 BE32). -/
def ofBE (a b c d : Byte) : Word := a ++ b ++ c ++ d

/-- The 32-bit value of four bytes, least significant first (R10 LE32). -/
def ofLE (a b c d : Byte) : Word := ofBE d c b a

/-- `be32(w)` (R10). -/
def be32 (w : Word) : Bytes := [w.extractLsb' 24 8, w.extractLsb' 16 8, w.extractLsb' 8 8, w.extractLsb' 0 8]

/-- `le32(w)` (R10). -/
def le32 (w : Word) : Bytes := [w.extractLsb' 0 8, w.extractLsb' 8 8, w.extractLsb' 16 8, w.extractLsb' 24 8]

/-- `be64(v)` (R10). -/
def be64 (v : BitVec 64) : Bytes := be32 (v.extractLsb' 32 32) ++ be32 (v.extractLsb' 0 32)

/-- `le64(v)` (R10). -/
def le64 (v : BitVec 64) : Bytes := le32 (v.extractLsb' 0 32) ++ le32 (v.extractLsb' 32 32)

/-- The big-endian words of a byte sequence, four bytes each, in order. -/
def wordsBE : Bytes → List Word
  | a :: b :: c :: d :: t => ofBE a b c d :: wordsBE t
  | _ => []

/-- The little-endian words of a byte sequence, four bytes each, in order. -/
def wordsLE : Bytes → List Word
  | a :: b :: c :: d :: t => ofLE a b c d :: wordsLE t
  | _ => []

/-- `zeros(n)` (R10). -/
def zeros (n : Nat) : Bytes := List.replicate n 0

/-- The first k blocks of 64 bytes of a byte sequence, in order (R15 "block"). -/
def blocksOf : Nat → Bytes → List Bytes
  | 0, _ => []
  | k + 1, m => m.take 64 :: blocksOf k (m.drop 64)

/-- The ASCII codes of a text (93_implementation_defined.md G1). DESIGN CHOICE, unsafe (log entry 16): a character outside
ASCII has no code in the spec, and the model takes its number mod 2^8. -/
def ascii (t : String) : Bytes := t.toList.map fun c => BitVec.ofNat 8 c.toNat

end Sys2Proof.Machine
end

