-- ==== Sys2Proof/Machine/CodecCore.lean ====
section
/-! DEFINITION. The hex and Base64 functions over byte sequences (41_codec.md R150 to R169). -/

namespace Sys2Proof.Machine

open Sys2Proof

/-- `HEXCH(v)`, lowercase (R152). -/
def hexCh (v : Nat) : Byte := if v ≤ 9 then BitVec.ofNat 8 (0x30 + v) else BitVec.ofNat 8 (0x61 + (v - 10))

/-- The two digits of a byte, high nibble first (R150). -/
def hexPair (b : Byte) : Bytes := [hexCh (b.toNat / 16), hexCh (b.toNat % 16)]

/-- The output of HEX_ENC: with `spaced`, one 0x20 before every pair but the first (R150, R151). -/
def hexEncode (spaced : Bool) : Bytes → Bytes
  | [] => []
  | b :: bs => hexPair b ++ bs.flatMap fun c => (if spaced then [0x20] else []) ++ hexPair c

/-- `HEXVAL(c)` (R156). -/
def hexVal (c : Byte) : Option Nat :=
  if 0x30 ≤ c.toNat ∧ c.toNat ≤ 0x39 then some (c.toNat - 0x30)
  else if 0x61 ≤ c.toNat ∧ c.toNat ≤ 0x66 then some (c.toNat - 0x61 + 10)
  else if 0x41 ≤ c.toNat ∧ c.toNat ≤ 0x46 then some (c.toNat - 0x41 + 10)
  else none

/-- The output of HEX_DEC; none is the DECODE error: odd length or a byte that is no hex digit (R155). -/
def hexDecode : Bytes → Option Bytes
  | [] => some []
  | [_] => none
  | h :: l :: t =>
    (hexVal h).bind fun x => (hexVal l).bind fun y => (hexDecode t).map fun o => BitVec.ofNat 8 (x * 16 + y) :: o

/-- `B64CH(v)` (R161). -/
def b64Ch (v : Nat) : Byte :=
  if v ≤ 25 then BitVec.ofNat 8 (0x41 + v)
  else if v ≤ 51 then BitVec.ofNat 8 (0x61 + (v - 26))
  else if v ≤ 61 then BitVec.ofNat 8 (0x30 + (v - 52))
  else if v = 62 then 0x2B
  else 0x2F

/-- The pad character '=' (R161). -/
def b64PadChar : Byte := 0x3D

/-- The 24-bit value of three bytes, first byte most significant (R160). -/
def b64Value (a b c : Byte) : Nat := a.toNat * 2 ^ 16 + b.toNat * 2 ^ 8 + c.toNat

/-- The j-th sextet of a 24-bit value (R160): bits 23:18, 17:12, 11:6, 5:0. -/
def b64Sextet (v j : Nat) : Nat := v / 2 ^ (18 - 6 * j) % 64

/-- The output of B64_ENC: groups of three bytes, the last of one or two padded (R160). -/
def b64Encode : Bytes → Bytes
  | [] => []
  | [a] => [b64Ch (b64Sextet (b64Value a 0 0) 0), b64Ch (b64Sextet (b64Value a 0 0) 1), b64PadChar, b64PadChar]
  | [a, b] =>
    [b64Ch (b64Sextet (b64Value a b 0) 0), b64Ch (b64Sextet (b64Value a b 0) 1),
      b64Ch (b64Sextet (b64Value a b 0) 2), b64PadChar]
  | a :: b :: c :: t =>
    [b64Ch (b64Sextet (b64Value a b c) 0), b64Ch (b64Sextet (b64Value a b c) 1),
      b64Ch (b64Sextet (b64Value a b c) 2), b64Ch (b64Sextet (b64Value a b c) 3)] ++ b64Encode t

/-- `B64VAL(c)`: the pad character, whitespace and the URL-safe characters are none (R167). -/
def b64Val (c : Byte) : Option Nat :=
  if 0x41 ≤ c.toNat ∧ c.toNat ≤ 0x5A then some (c.toNat - 0x41)
  else if 0x61 ≤ c.toNat ∧ c.toNat ≤ 0x7A then some (c.toNat - 0x61 + 26)
  else if 0x30 ≤ c.toNat ∧ c.toNat ≤ 0x39 then some (c.toNat - 0x30 + 52)
  else if c.toNat = 0x2B then some 62
  else if c.toNat = 0x2F then some 63
  else none

/-- A 24-bit value as three bytes (R165). -/
def b64Bytes (v : Nat) : Bytes :=
  [BitVec.ofNat 8 (v / 2 ^ 16), BitVec.ofNat 8 (v / 2 ^ 8), BitVec.ofNat 8 v]

/-- A quartet without padding (R165, p = 0). -/
def b64Quartet (a b c d : Byte) : Option Bytes :=
  (b64Val a).bind fun w => (b64Val b).bind fun x => (b64Val c).bind fun y => (b64Val d).map fun z =>
    b64Bytes (w * 2 ^ 18 + x * 2 ^ 12 + y * 2 ^ 6 + z)

/-- A quartet that ends in one '=': the third character's low 2 bits must be 0 (R165 p = 1, R169). -/
def b64PadOne (a b c : Byte) : Option Bytes :=
  (b64Val a).bind fun w => (b64Val b).bind fun x => (b64Val c).bind fun y =>
    let v := w * 2 ^ 18 + x * 2 ^ 12 + y * 2 ^ 6
    if v % 2 ^ 8 = 0 then some ((b64Bytes v).take 2) else none

/-- A quartet that ends in two '=': the second character's low 4 bits must be 0 (R165 p = 2, R169). -/
def b64PadTwo (a b : Byte) : Option Bytes :=
  (b64Val a).bind fun w => (b64Val b).bind fun x =>
    let v := w * 2 ^ 18 + x * 2 ^ 12
    if v % 2 ^ 16 = 0 then some ((b64Bytes v).take 1) else none

/-- The last quartet, with its padding count p (R165). -/
def b64Last (a b c d : Byte) : Option Bytes :=
  if d = b64PadChar then (if c = b64PadChar then b64PadTwo a b else b64PadOne a b c) else b64Quartet a b c d

/-- The output of B64_DEC; none is the DECODE error: a length that is no multiple of 4, a byte outside the alphabet,
padding elsewhere than at the end, or trailing bits that are not 0 (R165 to R169). -/
def b64Decode : Bytes → Option Bytes
  | [] => some []
  | a :: b :: c :: d :: t =>
    if t = [] then b64Last a b c d
    else (b64Quartet a b c d).bind fun o => (b64Decode t).map fun r => o ++ r
  | _ => none

/-- The comparator's accumulator: the OR of the byte XORs over every byte (44_mac.md R280, R282). -/
def ctAccumulate (a b : Bytes) : Byte := (a.zip b).foldl (fun acc p => acc ||| (p.1 ^^^ p.2)) 0

end Sys2Proof.Machine
end

