-- ==== Sys2Proof/Config.lean ====
section
/-! DEFINITION. What an implementation fixes, and the free values. Every constant here is opaque: no proof can know
what it is (93_implementation_defined.md parts 1 and 2). -/

namespace Sys2Proof

/-- BUF_POWERON: what the byte at a BUF index holds after power-on, until something writes it (00_scope.md R7,
20_memory.md R78, U1, U2, U5). Log entry 2. -/
opaque Config.bufPowerOn : Nat → Byte

/-- What the n-th free draw gives to a read of the BUF window while BUSY = 1 (20_memory.md R70, U3). Log entry 7. -/
opaque Config.busyRead : Nat → Word

/-- The byte at a BUF index of an aborted command's destination range, for the n-th free draw
(70_reset_and_hazards.md R344, U4). Log entry 8. -/
opaque Config.abortByte : Nat → Nat → Byte

/-- What the port bus_rdata shows where the spec gives it no value (20_memory.md R63, R77, U6). Log entry 15. -/
opaque Config.portRdata : Word

/-- LAT of CT_CMP less 1, as a function of the two lengths only (44_mac.md R283). Log entry 9. -/
opaque Config.latCtCmp : Word → Word → Nat

/-- LAT of every other word less 1: it may depend on every register (the word in CMD and the operand registers among them),
on the bytes of BUF and on anything else, the last argument (00_scope.md R7, 44_mac.md R284). Log entry 9. -/
opaque Config.latOther : List Word → List (Nat × Byte) → Nat → Nat

/-- ENGINE_BASE: where the aperture sits in the platform's address space (20_memory.md R61, U14). Log entry 15. -/
opaque Config.engineBase : Nat

end Sys2Proof
end

