-- ==== Sys2Proof/Syntax.lean ====
section
/-! DEFINITION. The syntax: the 22 commands, the raw fields of a command word, host transactions and host programs
(30_encoding.md R90 to R102, 20_memory.md R63). -/

namespace Sys2Proof

/-- The three hash algorithms (30_encoding.md R91). -/
inductive Alg where
  | sha256
  | sha1
  | md5
deriving DecidableEq, Repr

/-- The commands: one constructor per row of the opcode table (30_encoding.md R97). No command has an operand field:
every operand is a fixed register (R93, R94). -/
inductive Instr where
  | nop
  | hashInitSha256
  | hashInitSha1
  | hashInitMd5
  | hashBlockSha256
  | hashBlockSha1
  | hashBlockMd5
  | hashFinalSha256
  | hashFinalSha1
  | hashFinalMd5
  | hashSha256
  | hashSha1
  | hashMd5
  | hmacSha256
  | hmacSha1
  | hmacMd5
  | ctCmp
  | hexEnc
  | hexEncSp
  | hexDec
  | b64Enc
  | b64Dec
deriving DecidableEq, Repr

/-- The fields of a command word, any values (30_encoding.md R90). -/
structure CmdFields where
  /-- bits 7:0 -/
  op : BitVec 8
  /-- bits 9:8 -/
  alg : BitVec 2
  /-- bit 10 -/
  sp : Bool
  /-- bits 31:11 -/
  rsv : BitVec 21
deriving DecidableEq, Repr

/-- A host bus transaction: kind, address, size and write data (20_memory.md R63). There is no 16-bit size (R65). -/
inductive Txn where
  | rd8 (addr : HostAddr)
  | rd32 (addr : HostAddr)
  | wr8 (addr : HostAddr) (wdata : Byte)
  | wr32 (addr : HostAddr) (wdata : Word)
deriving DecidableEq, Repr

/-- One item of a host program: a transaction (30_encoding.md R101) or the polling loop WAIT (R102). -/
inductive HostItem where
  | txn (t : Txn)
  | wait
deriving DecidableEq, Repr

/-- The named registers of the map (10_state.md R21). -/
inductive Reg where
  | id
  | bufsz
  | ctrl
  | status
  | cmd
  | src0Addr
  | src0Len
  | src1Addr
  | src1Len
  | dstAddr
  | dstCap
  | outLen
  | result
  | msgBitsLo
  | msgBitsHi
  | state (i : Fin 8)
deriving DecidableEq, Repr

end Sys2Proof
end

