-- ==== Sys2Proof/Machine/State.lean ====
section
/-! DEFINITION. The machine's state as plain data, its stops, and the state after power-on reset (10_state.md). -/

namespace Sys2Proof.Machine

open Sys2Proof

/-- The faults: none. The spec has no state in which the machine stops: every command completes (00_scope.md R17), every
failure is a completion (60_exceptions.md R306), every host transaction has an answer, and a read of a byte nothing has
written gives a free value (log entry 2). Nothing raises one, so this is neither safe nor unsafe. -/
inductive Fault where
deriving DecidableEq, Repr

/-- The refusals. -/
inductive Refusal where
  /-- An instruction without a meaning, raised by its arm of `exec` (safe). No arm raises it: all 22 are modelled. -/
  | notModelled (mnemonic : String)
deriving DecidableEq, Repr

/-- The error codes of STATUS.ERRCODE (60_exceptions.md R300). Codes 6 to 15 are never produced (R305). -/
inductive ErrCode where
  | ok
  | illegal
  | range
  | length
  | decode
  | dstOvf
deriving DecidableEq, Repr

/-- The chaining state STATE0 .. STATE7 (10_state.md R30). -/
structure Chain where
  s0 : Word
  s1 : Word
  s2 : Word
  s3 : Word
  s4 : Word
  s5 : Word
  s6 : Word
  s7 : Word
deriving DecidableEq, Repr

/-- The two agents (00_scope.md R16). -/
inductive Agent where
  | host
  | engine
deriving DecidableEq, Repr

/-- What a bus transaction returns (20_memory.md R63). BUSERR carries no data: its rdata is unspecified (U6). -/
inductive Reply where
  | okayWrite
  | okayRead8 (rdata : Byte)
  | okayRead32 (rdata : Word)
  | busErr
deriving DecidableEq, Repr

/-- BUF as the bytes that have been written, by strictly rising index. An index that is not listed has never been
written since power-on and holds no known value (20_memory.md R78; log entries 2 and 3). -/
abbrev Memory := List Host.Cell

/-- The state (10_state.md R50). The last four fields and `bufSize` are the model's own (INVENTORY.md, State). -/
structure State where
  /-- the parameter BUF_SIZE (00_scope.md R7); no step changes it -/
  bufSize : Nat
  /-- CTRL.IRQ_EN (R24) -/
  irqEn : Bool
  /-- STATUS.BUSY, which is PENDING (R25, R40) -/
  busy : Bool
  /-- STATUS.DONE (R25) -/
  done : Bool
  /-- STATUS.OVR (R25) -/
  ovr : Bool
  /-- STATUS.ERRCODE (R25) -/
  errCode : ErrCode
  /-- CMD (R35) -/
  cmd : Word
  /-- SRC0_ADDR (R26) -/
  src0Addr : Word
  /-- SRC0_LEN (R26) -/
  src0Len : Word
  /-- SRC1_ADDR (R26) -/
  src1Addr : Word
  /-- SRC1_LEN (R26) -/
  src1Len : Word
  /-- DST_ADDR (R26) -/
  dstAddr : Word
  /-- DST_CAP (R26) -/
  dstCap : Word
  /-- OUT_LEN (R27) -/
  outLen : Word
  /-- RESULT.EQ (R28) -/
  resultEq : Bool
  /-- MSGBITS, both halves (R29) -/
  msgBits : BitVec 64
  /-- STATE0 .. STATE7 (R30) -/
  chain : Chain
  /-- BUF (R33) -/
  buf : Memory
  /-- how many free values have been drawn (log entry 7) -/
  draws : Nat
  /-- the host's items not issued yet, in issue order (log entry 5) -/
  host : List HostItem
  /-- which agent moves, at the coming points where both can (log entry 4) -/
  turns : List Agent
  /-- what the transactions returned, newest first (R135) -/
  replies : List Reply
deriving DecidableEq, Repr

/-- STATE0 .. STATE7 all 0 (R50: not the SHA-256 initial value). -/
def Chain.zero : Chain := ⟨0, 0, 0, 0, 0, 0, 0, 0⟩

/-- The machine right after power-on reset (10_state.md R50, 70_reset_and_hazards.md R340), with the default BUF_SIZE
(R7) and no host transaction placed. -/
def State.reset : State where
  bufSize := 4096
  irqEn := false
  busy := false
  done := false
  ovr := false
  errCode := .ok
  cmd := 0
  src0Addr := 0
  src0Len := 0
  src1Addr := 0
  src1Len := 0
  dstAddr := 0
  dstCap := 0
  outLen := 0
  resultEq := false
  msgBits := 0
  chain := Chain.zero
  buf := []
  draws := 0
  host := []
  turns := []
  replies := []

end Sys2Proof.Machine
end

