-- ==== Sys2Proof/Machine/Flags.lean ====
section
/-! DEFINITION. Every flag of the engine: the STATUS, CTRL and RESULT words, the irq wire, the W1C rule
(10_state.md R24, R25, R28, R32, R47; 60_exceptions.md R300, R310). -/

namespace Sys2Proof.Machine

open Sys2Proof

/-- The numeric value of an error code (60_exceptions.md R300). -/
def ErrCode.bits : ErrCode → BitVec 4
  | .ok => 0
  | .illegal => 1
  | .range => 2
  | .length => 3
  | .decode => 4
  | .dstOvf => 5

/-- STATUS.ERR, always `ERRCODE != 0` (R32). -/
def State.err (s : State) : Bool := s.errCode.bits ≠ 0

/-- The STATUS word as a read returns it (R25): bits 31:12 zero, ERRCODE 11:8, 7:4 zero, OVR, ERR, DONE, BUSY. -/
def State.statusWord (s : State) : Word :=
  (0 : BitVec 20) ++ s.errCode.bits ++ (0 : BitVec 4) ++ BitVec.ofBool s.ovr ++ BitVec.ofBool s.err ++
    BitVec.ofBool s.done ++ BitVec.ofBool s.busy

/-- The CTRL word as a read returns it: IRQ_EN in bit 0, SRST always 0 (R24). -/
def State.ctrlWord (s : State) : Word := (0 : BitVec 31) ++ BitVec.ofBool s.irqEn

/-- The RESULT word: EQ in bit 0, the rest 0 (R28). -/
def State.resultWord (s : State) : Word := (0 : BitVec 31) ++ BitVec.ofBool s.resultEq

/-- The irq output, a wire (R47, 60_exceptions.md R310). -/
def State.irq (s : State) : Bool := s.done && s.irqEn

/-- A STATUS write: 1 in bit 1 clears DONE, 1 in bit 3 clears OVR, nothing else (R25). It is the acknowledge, the
engine's only "trap return" (60_exceptions.md R307). -/
def State.statusWrite (s : State) (w : Word) : State :=
  { s with done := s.done && !w.getLsbD 1, ovr := s.ovr && !w.getLsbD 3 }

/-- A host access dropped or answered with a draw sets the sticky OVR (20_memory.md R70). -/
def State.setOvr (s : State) : State := { s with ovr := true }

end Sys2Proof.Machine
end

