-- ==== Sys2Proof/Machine/Ops.lean ====
section
/-! DEFINITION. The shared operations: BUF, accept, the two completions (the engine's only "trap", 60_exceptions.md
R306), the output primitive, and the reset of the registers. -/

namespace Sys2Proof.Machine

open Sys2Proof

/-! ### BUF -/

/-- The byte written last at an index, if any was. -/
def Memory.find? : Memory → Nat → Option Byte
  | [], _ => none
  | (k, b) :: m, a => if k = a then some b else Memory.find? m a

/-- `BUF[a]`: the byte written last, else what power-on left there, which is open (20_memory.md R78). -/
def Memory.read (m : Memory) (a : Nat) : Byte := (m.find? a).getD (Config.bufPowerOn a)

/-- Write one byte, keeping the indices strictly rising. -/
def Memory.write : Memory → Nat → Byte → Memory
  | [], a, b => [(a, b)]
  | (k, v) :: m, a, b =>
    if a < k then (a, b) :: (k, v) :: m
    else if a = k then (a, b) :: m
    else (k, v) :: Memory.write m a b

/-- `BUF[addr .. addr+n)` (00_scope.md R11 MemRead). -/
def Memory.readBytes (m : Memory) (addr n : Nat) : Bytes := (List.range n).map fun i => m.read (addr + i)

/-- Write a byte sequence from an index on (00_scope.md R11 MemWrite). -/
def Memory.writeBytes : Memory → Nat → Bytes → Memory
  | m, _, [] => m
  | m, a, b :: bs => Memory.writeBytes (m.write a b) (a + 1) bs

/-- The canonical form: the indices rise strictly. An unlisted index holds no known value, so no entry can repeat what
an unlisted index reads as (log entry 3). -/
def Memory.wf : Memory → Bool
  | [] => true
  | (k, _) :: m => m.all (fun c => k < c.1) && Memory.wf m

/-- Every listed index lies inside BUF (10_state.md R33). -/
def Memory.within (n : Nat) (m : Memory) : Bool := m.all fun c => c.1 < n

/-! ### Accept and completion -/

/-- The accept of a command word (40_control.md R121). -/
def State.accept (s : State) (w : Word) : State := { s with cmd := w, busy := true, done := false }

/-- Success completion with output length n, applied to the state that carries the staged writes (40_control.md R128). -/
def State.complete (s : State) (n : Nat) : State :=
  { s with errCode := .ok, outLen := BitVec.ofNat 32 n, busy := false, done := true }

/-- What OUT_LEN records of an error: the needed length for DST_OVF, else 0 (40_control.md R127). -/
def recordedLength (code : ErrCode) (needed : Nat) : Word :=
  if code = .dstOvf then BitVec.ofNat 32 needed else 0

/-- Error completion: the engine's only "trap entry" (40_control.md R127, 60_exceptions.md R306). It is applied to the
state the command began in, so everything staged is discarded. -/
def State.raiseError (s : State) (code : ErrCode) (needed : Nat) : State :=
  { s with errCode := code, outLen := recordedLength code needed, busy := false, done := true }

/-- The output primitive (40_control.md R130): `s` is the state the command began in, `staged` is `s` with the body's
staged writes. -/
def State.emit (s : State) (out : Bytes) (staged : State) : State :=
  if out.length ≤ s.dstCap.toNat then
    { staged with buf := s.buf.writeBytes s.dstAddr.toNat out }.complete out.length
  else s.raiseError .dstOvf out.length

/-! ### Reset of the registers -/

/-- Every register at its soft reset value (10_state.md R50). BUF, the parameter and the host are not registers. -/
def State.clearRegisters (s : State) : State :=
  { State.reset with
    bufSize := s.bufSize, buf := s.buf, draws := s.draws, host := s.host, turns := s.turns, replies := s.replies }

end Sys2Proof.Machine
end

