-- ==== Sys2Proof/Machine/Operands.lean ====
section
/-! DEFINITION. The operands: which command uses which, the range check, and the source byte sequences
(40_control.md R123 to R125, R129, R133). -/

namespace Sys2Proof.Machine

open Sys2Proof

/-- The three operand ranges. -/
inductive Operand where
  | src0
  | src1
  | dst
deriving DecidableEq, Repr

/-- The operand ranges each command uses, in the order they are checked (40_control.md R123, R125). -/
def operandsOf : Instr → List Operand
  | .nop => []
  | .hashInitSha256 => []
  | .hashInitSha1 => []
  | .hashInitMd5 => []
  | .hashBlockSha256 => [.src0]
  | .hashBlockSha1 => [.src0]
  | .hashBlockMd5 => [.src0]
  | .hashFinalSha256 => [.src0, .dst]
  | .hashFinalSha1 => [.src0, .dst]
  | .hashFinalMd5 => [.src0, .dst]
  | .hashSha256 => [.src0, .dst]
  | .hashSha1 => [.src0, .dst]
  | .hashMd5 => [.src0, .dst]
  | .hmacSha256 => [.src0, .src1, .dst]
  | .hmacSha1 => [.src0, .src1, .dst]
  | .hmacMd5 => [.src0, .src1, .dst]
  | .ctCmp => [.src0, .src1]
  | .hexEnc => [.src0, .dst]
  | .hexEncSp => [.src0, .dst]
  | .hexDec => [.src0, .dst]
  | .b64Enc => [.src0, .dst]
  | .b64Dec => [.src0, .dst]

/-- Does the command write a destination (40_control.md R123)? -/
def writesDst (i : Instr) : Bool := (operandsOf i).contains .dst

/-- `inRange(addr, n)` in unbounded naturals (40_control.md R124). -/
def State.inRange (s : State) (addr n : Word) : Bool := addr.toNat + n.toNat ≤ s.bufSize

/-- The range check of one operand; the destination is checked with its whole capacity (40_control.md R124). -/
def State.operandInRange (s : State) : Operand → Bool
  | .src0 => s.inRange s.src0Addr s.src0Len
  | .src1 => s.inRange s.src1Addr s.src1Len
  | .dst => s.inRange s.dstAddr s.dstCap

/-- Do all the operands of a command pass (40_control.md R125)? -/
def State.operandsOk (s : State) (i : Instr) : Bool := (operandsOf i).all s.operandInRange

/-- The range checks before a body (40_control.md R125): `body` is what the body makes of `s`. -/
def State.checked (s : State) (i : Instr) (body : State) : State :=
  if s.operandsOk i then body else s.raiseError .range 0

/-- The first source's bytes, from BUF as the command finds it (40_control.md R129, R133). -/
def State.src0Bytes (s : State) : Bytes := s.buf.readBytes s.src0Addr.toNat s.src0Len.toNat

/-- The second source's bytes. -/
def State.src1Bytes (s : State) : Bytes := s.buf.readBytes s.src1Addr.toNat s.src1Len.toNat

end Sys2Proof.Machine
end

