-- ==== Sys2Proof/Machine/Codec.lean ====
section
/-! DEFINITION. The codec family: HEX_ENC, HEX_DEC, B64_ENC, B64_DEC (41_codec.md). -/

namespace Sys2Proof.Machine

open Sys2Proof

/-- The end of a decoder's body: DECODE, or the output (40_control.md R126, 41_codec.md R172). -/
def State.emitDecoded (s : State) : Option Bytes → State
  | none => s.raiseError .decode 0
  | some out => s.emit out s

/-- HEX_ENC (41_codec.md R150). -/
def execHexEnc (s : State) : Host.Outcome State Fault Refusal :=
  .next (s.checked .hexEnc (s.emit (hexEncode false s.src0Bytes) s))

/-- HEX_ENC.SP (41_codec.md R150, R151). -/
def execHexEncSp (s : State) : Host.Outcome State Fault Refusal :=
  .next (s.checked .hexEncSp (s.emit (hexEncode true s.src0Bytes) s))

/-- HEX_DEC (41_codec.md R155). -/
def execHexDec (s : State) : Host.Outcome State Fault Refusal :=
  .next (s.checked .hexDec (s.emitDecoded (hexDecode s.src0Bytes)))

/-- B64_ENC (41_codec.md R160). -/
def execB64Enc (s : State) : Host.Outcome State Fault Refusal :=
  .next (s.checked .b64Enc (s.emit (b64Encode s.src0Bytes) s))

/-- B64_DEC (41_codec.md R165). -/
def execB64Dec (s : State) : Host.Outcome State Fault Refusal :=
  .next (s.checked .b64Dec (s.emitDecoded (b64Decode s.src0Bytes)))

end Sys2Proof.Machine
end

