-- ==== Sys2Proof/Machine/Control.lean ====
section
/-! DEFINITION. The control family: NOP (40_control.md R131). -/

namespace Sys2Proof.Machine

open Sys2Proof

/-- NOP: completes and does nothing else (40_control.md R131). -/
def execNop (s : State) : Host.Outcome State Fault Refusal := .next (s.checked .nop (s.complete 0))

end Sys2Proof.Machine
end

