-- ==== Sys2Proof/Machine/Md5.lean ====
section
/-! DEFINITION. The MD5 compression function (42_digest_core.md R205 to R209). -/

namespace Sys2Proof.Machine

open Sys2Proof

/-- The four words A, B, C and D (R208). -/
structure Md5Vars where
  a : Word
  b : Word
  c : Word
  d : Word
deriving DecidableEq, Repr

/-- The auxiliary function of step i: F, G, H or I (R205, R207). -/
def md5Aux (i : Nat) (x y z : Word) : Word :=
  if i < 16 then (x &&& y) ||| (~~~x &&& z)
  else if i < 32 then (x &&& z) ||| (y &&& ~~~z)
  else if i < 48 then x ^^^ y ^^^ z
  else y ^^^ (x ||| ~~~z)

/-- The MD5 step constants T (R206), entries 0 to 31. -/
def md5TLo : List Word :=
  [0xD76AA478, 0xE8C7B756, 0x242070DB, 0xC1BDCEEE, 0xF57C0FAF, 0x4787C62A, 0xA8304613, 0xFD469501,
    0x698098D8, 0x8B44F7AF, 0xFFFF5BB1, 0x895CD7BE, 0x6B901122, 0xFD987193, 0xA679438E, 0x49B40821,
    0xF61E2562, 0xC040B340, 0x265E5A51, 0xE9B6C7AA, 0xD62F105D, 0x02441453, 0xD8A1E681, 0xE7D3FBC8,
    0x21E1CDE6, 0xC33707D6, 0xF4D50D87, 0x455A14ED, 0xA9E3E905, 0xFCEFA3F8, 0x676F02D9, 0x8D2A4C8A]

/-- The MD5 step constants T (R206), entries 32 to 63. -/
def md5THi : List Word :=
  [0xFFFA3942, 0x8771F681, 0x6D9D6122, 0xFDE5380C, 0xA4BEEA44, 0x4BDECFA9, 0xF6BB4B60, 0xBEBFBC70,
    0x289B7EC6, 0xEAA127FA, 0xD4EF3085, 0x04881D05, 0xD9D4D039, 0xE6DB99E5, 0x1FA27CF8, 0xC4AC5665,
    0xF4292244, 0x432AFF97, 0xAB9423A7, 0xFC93A039, 0x655B59C3, 0x8F0CCC92, 0xFFEFF47D, 0x85845DD1,
    0x6FA87E4F, 0xFE2CE6E0, 0xA3014314, 0x4E0811A1, 0xF7537E82, 0xBD3AF235, 0x2AD7D2BB, 0xEB86D391]

/-- The MD5 step constants T (R206). -/
def md5T : List Word := md5TLo ++ md5THi

/-- The rotation amount S[i] (R207). -/
def md5Shift (i : Nat) : Nat :=
  if i < 16 then [7, 12, 17, 22].getD (i % 4) 0
  else if i < 32 then [5, 9, 14, 20].getD (i % 4) 0
  else if i < 48 then [4, 11, 16, 23].getD (i % 4) 0
  else [6, 10, 15, 21].getD (i % 4) 0

/-- The message word index M[i] (R207). -/
def md5Index (i : Nat) : Nat :=
  if i < 16 then i
  else if i < 32 then (5 * i + 1) % 16
  else if i < 48 then (3 * i + 5) % 16
  else 7 * i % 16

/-- Step i with constant t, over the message words x (R208). -/
def md5Step (x : List Word) (v : Md5Vars) (it : Nat × Word) : Md5Vars :=
  ⟨v.d,
    v.b + rotl (v.a + md5Aux it.1 v.b v.c v.d + it.2 + x.getD (md5Index it.1) 0) (md5Shift it.1),
    v.b, v.c⟩

/-- The compression function `C5(H, B)`: message words are least significant byte first (R208). -/
def c5 (h : Md5Vars) (b : Bytes) : Md5Vars :=
  let v := ((List.range 64).zip md5T).foldl (md5Step (wordsLE b)) h
  ⟨h.a + v.a, h.b + v.b, h.c + v.c, h.d + v.d⟩

/-- The initial value IV5 (R209). -/
def iv5 : Md5Vars := ⟨0x67452301, 0xEFCDAB89, 0x98BADCFE, 0x10325476⟩

end Sys2Proof.Machine
end

