-- ==== Sys2Proof/Machine/Sha1.lean ====
section
/-! DEFINITION. The SHA-1 compression function (42_digest_core.md R200 to R203). -/

namespace Sys2Proof.Machine

open Sys2Proof

/-- The five working variables a to e, and the five words H0 to H4 (R202). -/
structure Sha1Vars where
  a : Word
  b : Word
  c : Word
  d : Word
  e : Word
deriving DecidableEq, Repr

/-- `f_t(b, c, d)` (R200). -/
def sha1F (t : Nat) (b c d : Word) : Word :=
  if t < 20 then (b &&& c) ||| (~~~b &&& d)
  else if t < 40 then b ^^^ c ^^^ d
  else if t < 60 then (b &&& c) ||| (b &&& d) ||| (c &&& d)
  else b ^^^ c ^^^ d

/-- `K1_t` (R200). -/
def sha1K (t : Nat) : Word :=
  if t < 20 then 0x5A827999 else if t < 40 then 0x6ED9EBA1 else if t < 60 then 0x8F1BBCDC else 0xCA62C1D6

/-- Append n words to a message schedule held latest word first: `W[t-i]` is at place i - 1 (R201). -/
def sha1Extend : Nat → List Word → List Word
  | 0, w => w
  | n + 1, w => sha1Extend n (rotl (w.getD 2 0 ^^^ w.getD 7 0 ^^^ w.getD 13 0 ^^^ w.getD 15 0) 1 :: w)

/-- The message schedule W[0..79] of a block (R201). -/
def sha1Schedule (b : Bytes) : List Word := (sha1Extend 64 (wordsBE b).reverse).reverse

/-- Round t with message word w (R202). -/
def sha1Round (v : Sha1Vars) (tw : Nat × Word) : Sha1Vars :=
  ⟨rotl v.a 5 + sha1F tw.1 v.b v.c v.d + v.e + sha1K tw.1 + tw.2, v.a, rotl v.b 30, v.c, v.d⟩

/-- The compression function `C1(H, B)` (R202). -/
def c1 (h : Sha1Vars) (b : Bytes) : Sha1Vars :=
  let v := ((List.range 80).zip (sha1Schedule b)).foldl sha1Round h
  ⟨h.a + v.a, h.b + v.b, h.c + v.c, h.d + v.d, h.e + v.e⟩

/-- The initial hash value IV1 (R203). -/
def iv1 : Sha1Vars := ⟨0x67452301, 0xEFCDAB89, 0x98BADCFE, 0x10325476, 0xC3D2E1F0⟩

end Sys2Proof.Machine
end

