-- ==== Sys2Proof/Machine/Sha256.lean ====
section
/-! DEFINITION. The SHA-256 compression function (42_digest_core.md R190 to R194). All additions wrap mod 2^32 (R220). -/

namespace Sys2Proof.Machine

open Sys2Proof

/-- `Ch` (R190). -/
def sha256Ch (x y z : Word) : Word := (x &&& y) ^^^ (~~~x &&& z)

/-- `Maj` (R190). -/
def sha256Maj (x y z : Word) : Word := (x &&& y) ^^^ (x &&& z) ^^^ (y &&& z)

/-- `BSIG0` (R190). -/
def sha256BSig0 (x : Word) : Word := rotr x 2 ^^^ rotr x 13 ^^^ rotr x 22

/-- `BSIG1` (R190). -/
def sha256BSig1 (x : Word) : Word := rotr x 6 ^^^ rotr x 11 ^^^ rotr x 25

/-- `SSIG0` (R190). -/
def sha256SSig0 (x : Word) : Word := rotr x 7 ^^^ rotr x 18 ^^^ (x >>> 3)

/-- `SSIG1` (R190). -/
def sha256SSig1 (x : Word) : Word := rotr x 17 ^^^ rotr x 19 ^^^ (x >>> 10)

/-- The SHA-256 round constants K256 (R191), entries 0 to 31. -/
def k256Lo : List Word :=
  [0x428A2F98, 0x71374491, 0xB5C0FBCF, 0xE9B5DBA5, 0x3956C25B, 0x59F111F1, 0x923F82A4, 0xAB1C5ED5,
    0xD807AA98, 0x12835B01, 0x243185BE, 0x550C7DC3, 0x72BE5D74, 0x80DEB1FE, 0x9BDC06A7, 0xC19BF174,
    0xE49B69C1, 0xEFBE4786, 0x0FC19DC6, 0x240CA1CC, 0x2DE92C6F, 0x4A7484AA, 0x5CB0A9DC, 0x76F988DA,
    0x983E5152, 0xA831C66D, 0xB00327C8, 0xBF597FC7, 0xC6E00BF3, 0xD5A79147, 0x06CA6351, 0x14292967]

/-- The SHA-256 round constants K256 (R191), entries 32 to 63. -/
def k256Hi : List Word :=
  [0x27B70A85, 0x2E1B2138, 0x4D2C6DFC, 0x53380D13, 0x650A7354, 0x766A0ABB, 0x81C2C92E, 0x92722C85,
    0xA2BFE8A1, 0xA81A664B, 0xC24B8B70, 0xC76C51A3, 0xD192E819, 0xD6990624, 0xF40E3585, 0x106AA070,
    0x19A4C116, 0x1E376C08, 0x2748774C, 0x34B0BCB5, 0x391C0CB3, 0x4ED8AA4A, 0x5B9CCA4F, 0x682E6FF3,
    0x748F82EE, 0x78A5636F, 0x84C87814, 0x8CC70208, 0x90BEFFFA, 0xA4506CEB, 0xBEF9A3F7, 0xC67178F2]

/-- The SHA-256 round constants K256 (R191). -/
def k256 : List Word := k256Lo ++ k256Hi

/-- Append n words to a message schedule held latest word first: `W[t-i]` is at place i - 1 (R192). -/
def sha256Extend : Nat → List Word → List Word
  | 0, w => w
  | n + 1, w =>
    sha256Extend n
      ((sha256SSig1 (w.getD 1 0) + w.getD 6 0 + sha256SSig0 (w.getD 14 0) + w.getD 15 0) :: w)

/-- The message schedule W[0..63] of a block (R192). -/
def sha256Schedule (b : Bytes) : List Word := (sha256Extend 48 (wordsBE b).reverse).reverse

/-- One round on the working variables a to h, held in s0 to s7 (R193). -/
def sha256Round (v : Chain) (kw : Word × Word) : Chain :=
  let t1 := v.s7 + sha256BSig1 v.s4 + sha256Ch v.s4 v.s5 v.s6 + kw.1 + kw.2
  let t2 := sha256BSig0 v.s0 + sha256Maj v.s0 v.s1 v.s2
  ⟨t1 + t2, v.s0, v.s1, v.s2, v.s3 + t1, v.s4, v.s5, v.s6⟩

/-- The compression function `C256(H, B)` (R193). -/
def c256 (h : Chain) (b : Bytes) : Chain :=
  let v := (k256.zip (sha256Schedule b)).foldl sha256Round h
  ⟨h.s0 + v.s0, h.s1 + v.s1, h.s2 + v.s2, h.s3 + v.s3, h.s4 + v.s4, h.s5 + v.s5, h.s6 + v.s6, h.s7 + v.s7⟩

/-- The initial hash value IV256 (R194). -/
def iv256 : Chain :=
  ⟨0x6A09E667, 0xBB67AE85, 0x3C6EF372, 0xA54FF53A, 0x510E527F, 0x9B05688C, 0x1F83D9AB, 0x5BE0CD19⟩

end Sys2Proof.Machine
end

