-- ==== Sys2Proof/Machine/DigestCore.lean ====
section
/-! DEFINITION. What the three hashes share: compression into STATE, initial values, padding, digest output, the message
hash and HMAC (42_digest_core.md R214 to R219, 44_mac.md R271). -/

namespace Sys2Proof.Machine

open Sys2Proof

/-- The digest length in bytes (00_scope.md R6). -/
def digestLen : Alg → Nat
  | .sha256 => 32
  | .sha1 => 20
  | .md5 => 16

/-- STATE0 .. STATE4 as the SHA-1 words (R30). -/
def Chain.sha1Vars (s : Chain) : Sha1Vars := ⟨s.s0, s.s1, s.s2, s.s3, s.s4⟩

/-- STATE with its first five words replaced (R214). -/
def Chain.withSha1 (s : Chain) (v : Sha1Vars) : Chain :=
  { s with s0 := v.a, s1 := v.b, s2 := v.c, s3 := v.d, s4 := v.e }

/-- STATE0 .. STATE3 as the MD5 words (R30). -/
def Chain.md5Vars (s : Chain) : Md5Vars := ⟨s.s0, s.s1, s.s2, s.s3⟩

/-- STATE with its first four words replaced (R214). -/
def Chain.withMd5 (s : Chain) (v : Md5Vars) : Chain :=
  { s with s0 := v.a, s1 := v.b, s2 := v.c, s3 := v.d }

/-- `COMPRESS(alg, S, B)` (R214): SHA-1 leaves words 5 to 7 and MD5 words 4 to 7 unchanged. -/
def compress : Alg → Chain → Bytes → Chain
  | .sha256, s, b => c256 s b
  | .sha1, s, b => s.withSha1 (c1 s.sha1Vars b)
  | .md5, s, b => s.withMd5 (c5 s.md5Vars b)

/-- `COMPRESS*(alg, S, M)` over the whole blocks of M, in order (R214). -/
def compressAll (alg : Alg) (s : Chain) (m : Bytes) : Chain :=
  (blocksOf (m.length / 64) m).foldl (compress alg) s

/-- `IV(alg)`: unused words are 0 (R215). -/
def iv : Alg → Chain
  | .sha256 => iv256
  | .sha1 => Chain.zero.withSha1 iv1
  | .md5 => Chain.zero.withMd5 iv5

/-- `LEN64(alg, L)`, of L mod 2^64 (R216). -/
def len64 (alg : Alg) (l : Nat) : Bytes :=
  match alg with
  | .sha256 => be64 (BitVec.ofNat 64 l)
  | .sha1 => be64 (BitVec.ofNat 64 l)
  | .md5 => le64 (BitVec.ofNat 64 l)

/-- The number of zero bytes of the padding, `(55 - r mod 64) mod 64` in the integers (R216). -/
def padZeros (r : Nat) : Nat := (64 + 55 - r % 64) % 64

/-- `PAD(alg, r, L)` (R216). -/
def pad (alg : Alg) (r l : Nat) : Bytes := 0x80 :: (zeros (padZeros r) ++ len64 alg l)

/-- The chaining state after the message bytes t, whole blocks first and then the padded rest, for a total length of l
bits (R219, 43_digest_commands.md R242, R244). -/
def finishHash (alg : Alg) (s : Chain) (t : Bytes) (l : Nat) : Chain :=
  let q := 64 * (t.length / 64)
  compressAll alg (compressAll alg s (t.take q)) (t.drop q ++ pad alg (t.length - q) l)

/-- `DIGEST(alg, S)` (R218). -/
def digest : Alg → Chain → Bytes
  | .sha256, s =>
    be32 s.s0 ++ be32 s.s1 ++ be32 s.s2 ++ be32 s.s3 ++ be32 s.s4 ++ be32 s.s5 ++ be32 s.s6 ++ be32 s.s7
  | .sha1, s => be32 s.s0 ++ be32 s.s1 ++ be32 s.s2 ++ be32 s.s3 ++ be32 s.s4
  | .md5, s => le32 s.s0 ++ le32 s.s1 ++ le32 s.s2 ++ le32 s.s3

/-- The chaining state a one-shot hash of M ends in (43_digest_commands.md R244). -/
def hashChain (alg : Alg) (m : Bytes) : Chain := finishHash alg (iv alg) m (8 * m.length)

/-- `HASHFN(alg, M)` (R219). -/
def hashFn (alg : Alg) (m : Bytes) : Bytes := digest alg (hashChain alg m)

/-- The key as it enters K0: hashed when longer than 64 bytes (44_mac.md R271). -/
def hmacKey (alg : Alg) (k : Bytes) : Bytes := if 64 < k.length then hashFn alg k else k

/-- K0: the key with zero bytes to 64 (44_mac.md R271, R272). -/
def hmacK0 (alg : Alg) (k : Bytes) : Bytes := hmacKey alg k ++ zeros (64 - (hmacKey alg k).length)

/-- K0 with every byte XORed with v: ipad for 0x36, opad for 0x5C (44_mac.md R271). -/
def hmacPad (alg : Alg) (k : Bytes) (v : Byte) : Bytes := (hmacK0 alg k).map (· ^^^ v)

/-- The 64 + DL(alg) bytes the outer hash runs over, `opad ++ inner` (44_mac.md R271, R273). -/
def hmacOuter (alg : Alg) (k m : Bytes) : Bytes :=
  hmacPad alg k 0x5C ++ hashFn alg (hmacPad alg k 0x36 ++ m)

/-- `HMACFN(alg, K, M)` (44_mac.md R271). -/
def hmacFn (alg : Alg) (k m : Bytes) : Bytes := hashFn alg (hmacOuter alg k m)

end Sys2Proof.Machine
end

