-- ==== Sys2Proof/Machine/Digest.lean ====
section
/-! DEFINITION. The digest family: HASH_INIT, HASH_BLOCK, HASH_FINAL, HASH (43_digest_commands.md). -/

namespace Sys2Proof.Machine

open Sys2Proof

/-- A state with staged values for STATE and MSGBITS (40_control.md R128). -/
def State.stage (s : State) (c : Chain) (bits : BitVec 64) : State := { s with chain := c, msgBits := bits }

/-- The body of HASH_INIT: STATE becomes IV(alg) and MSGBITS 0 (43_digest_commands.md R240). -/
def hashInitBody (alg : Alg) (s : State) : State := (s.stage (iv alg) 0).complete 0

/-- The body of HASH_BLOCK: whole blocks only, into STATE as it stands; MSGBITS counts 512 a block mod 2^64
(43_digest_commands.md R241). -/
def hashBlockBody (alg : Alg) (s : State) : State :=
  if s.src0Len.toNat % 64 = 0 then
    (s.stage (compressAll alg s.chain s.src0Bytes)
      (s.msgBits + BitVec.ofNat 64 (512 * (s.src0Len.toNat / 64)))).complete 0
  else s.raiseError .length 0

/-- The total message length in bits that HASH_FINAL pads with, mod 2^64 (43_digest_commands.md R242). -/
def State.finalBits (s : State) : BitVec 64 := s.msgBits + BitVec.ofNat 64 (8 * s.src0Len.toNat)

/-- The chaining state HASH_FINAL ends in (43_digest_commands.md R242). -/
def State.finalChain (s : State) (alg : Alg) : Chain := finishHash alg s.chain s.src0Bytes s.finalBits.toNat

/-- The body of HASH_FINAL (43_digest_commands.md R242). -/
def hashFinalBody (alg : Alg) (s : State) : State :=
  s.emit (digest alg (s.finalChain alg)) (s.stage (s.finalChain alg) s.finalBits)

/-- The body of HASH: STATE and MSGBITS before it are ignored (43_digest_commands.md R244). -/
def hashBody (alg : Alg) (s : State) : State :=
  s.emit (hashFn alg s.src0Bytes)
    (s.stage (hashChain alg s.src0Bytes) (BitVec.ofNat 64 (8 * s.src0Len.toNat)))

/-- HASH_INIT.SHA256 (43_digest_commands.md R240). -/
def execHashInitSha256 (s : State) : Host.Outcome State Fault Refusal := .next (s.checked .hashInitSha256 (hashInitBody .sha256 s))

/-- HASH_INIT.SHA1 (43_digest_commands.md R240). -/
def execHashInitSha1 (s : State) : Host.Outcome State Fault Refusal := .next (s.checked .hashInitSha1 (hashInitBody .sha1 s))

/-- HASH_INIT.MD5 (43_digest_commands.md R240). -/
def execHashInitMd5 (s : State) : Host.Outcome State Fault Refusal := .next (s.checked .hashInitMd5 (hashInitBody .md5 s))

/-- HASH_BLOCK.SHA256 (43_digest_commands.md R241). -/
def execHashBlockSha256 (s : State) : Host.Outcome State Fault Refusal := .next (s.checked .hashBlockSha256 (hashBlockBody .sha256 s))

/-- HASH_BLOCK.SHA1 (43_digest_commands.md R241). -/
def execHashBlockSha1 (s : State) : Host.Outcome State Fault Refusal := .next (s.checked .hashBlockSha1 (hashBlockBody .sha1 s))

/-- HASH_BLOCK.MD5 (43_digest_commands.md R241). -/
def execHashBlockMd5 (s : State) : Host.Outcome State Fault Refusal := .next (s.checked .hashBlockMd5 (hashBlockBody .md5 s))

/-- HASH_FINAL.SHA256 (43_digest_commands.md R242). -/
def execHashFinalSha256 (s : State) : Host.Outcome State Fault Refusal := .next (s.checked .hashFinalSha256 (hashFinalBody .sha256 s))

/-- HASH_FINAL.SHA1 (43_digest_commands.md R242). -/
def execHashFinalSha1 (s : State) : Host.Outcome State Fault Refusal := .next (s.checked .hashFinalSha1 (hashFinalBody .sha1 s))

/-- HASH_FINAL.MD5 (43_digest_commands.md R242). -/
def execHashFinalMd5 (s : State) : Host.Outcome State Fault Refusal := .next (s.checked .hashFinalMd5 (hashFinalBody .md5 s))

/-- HASH.SHA256 (43_digest_commands.md R244). -/
def execHashSha256 (s : State) : Host.Outcome State Fault Refusal := .next (s.checked .hashSha256 (hashBody .sha256 s))

/-- HASH.SHA1 (43_digest_commands.md R244). -/
def execHashSha1 (s : State) : Host.Outcome State Fault Refusal := .next (s.checked .hashSha1 (hashBody .sha1 s))

/-- HASH.MD5 (43_digest_commands.md R244). -/
def execHashMd5 (s : State) : Host.Outcome State Fault Refusal := .next (s.checked .hashMd5 (hashBody .md5 s))

end Sys2Proof.Machine
end

