-- ==== Sys2Proof/Machine/Mac.lean ====
section
/-! DEFINITION. The MAC family: HMAC and the constant-time comparator (44_mac.md). -/

namespace Sys2Proof.Machine

open Sys2Proof

/-- The body of HMAC: STATE and MSGBITS are left as the outer hash leaves them (44_mac.md R270, R271, R273). -/
def hmacBody (alg : Alg) (s : State) : State :=
  s.emit (hmacFn alg s.src0Bytes s.src1Bytes)
    (s.stage (hashChain alg (hmacOuter alg s.src0Bytes s.src1Bytes))
      (BitVec.ofNat 64 (8 * (64 + digestLen alg))))

/-- HMAC.SHA256 (44_mac.md R270). -/
def execHmacSha256 (s : State) : Host.Outcome State Fault Refusal := .next (s.checked .hmacSha256 (hmacBody .sha256 s))

/-- HMAC.SHA1 (44_mac.md R270). -/
def execHmacSha1 (s : State) : Host.Outcome State Fault Refusal := .next (s.checked .hmacSha1 (hmacBody .sha1 s))

/-- HMAC.MD5 (44_mac.md R270). -/
def execHmacMd5 (s : State) : Host.Outcome State Fault Refusal := .next (s.checked .hmacMd5 (hmacBody .md5 s))

/-- The comparator's verdict: lengths first, then every byte (44_mac.md R280). -/
def State.ctEqual (s : State) : Bool :=
  if s.src0Len ≠ s.src1Len then false else ctAccumulate s.src0Bytes s.src1Bytes = 0

/-- The body of CT_CMP: it writes RESULT.EQ only (44_mac.md R280, R281). -/
def ctCmpBody (s : State) : State := { s with resultEq := s.ctEqual }.complete 0

/-- CT_CMP (44_mac.md R280). -/
def execCtCmp (s : State) : Host.Outcome State Fault Refusal := .next (s.checked .ctCmp (ctCmpBody s))

end Sys2Proof.Machine
end

