-- ==== Sys2Proof/Machine/Dispatch.lean ====
section
/-! DEFINITION. The dispatch: one arm per command (40_control.md R125). -/

namespace Sys2Proof.Machine

open Sys2Proof

def exec (i : Instr) (s : State) : Host.Outcome State Fault Refusal :=
  match i with
  | .nop => Sys2Proof.Machine.execNop s
  | .hashInitSha256 => Sys2Proof.Machine.execHashInitSha256 s
  | .hashInitSha1 => Sys2Proof.Machine.execHashInitSha1 s
  | .hashInitMd5 => Sys2Proof.Machine.execHashInitMd5 s
  | .hashBlockSha256 => Sys2Proof.Machine.execHashBlockSha256 s
  | .hashBlockSha1 => Sys2Proof.Machine.execHashBlockSha1 s
  | .hashBlockMd5 => Sys2Proof.Machine.execHashBlockMd5 s
  | .hashFinalSha256 => Sys2Proof.Machine.execHashFinalSha256 s
  | .hashFinalSha1 => Sys2Proof.Machine.execHashFinalSha1 s
  | .hashFinalMd5 => Sys2Proof.Machine.execHashFinalMd5 s
  | .hashSha256 => Sys2Proof.Machine.execHashSha256 s
  | .hashSha1 => Sys2Proof.Machine.execHashSha1 s
  | .hashMd5 => Sys2Proof.Machine.execHashMd5 s
  | .hmacSha256 => Sys2Proof.Machine.execHmacSha256 s
  | .hmacSha1 => Sys2Proof.Machine.execHmacSha1 s
  | .hmacMd5 => Sys2Proof.Machine.execHmacMd5 s
  | .ctCmp => Sys2Proof.Machine.execCtCmp s
  | .hexEnc => Sys2Proof.Machine.execHexEnc s
  | .hexEncSp => Sys2Proof.Machine.execHexEncSp s
  | .hexDec => Sys2Proof.Machine.execHexDec s
  | .b64Enc => Sys2Proof.Machine.execB64Enc s
  | .b64Dec => Sys2Proof.Machine.execB64Dec s

end Sys2Proof.Machine
end

