-- ==== Sys2Proof/WellFormed.lean ====
section
/-! DEFINITION. Which raw terms of the syntax are well formed: command fields (30_encoding.md R96, R98) and host
transactions (20_memory.md R64, R65). -/

namespace Sys2Proof

/-- R98 (e): no reserved bit is set. -/
def CmdFields.rsvClear (f : CmdFields) : Bool := f.rsv = 0

/-- The assigned OP values (R95). -/
def assignedOps : List (BitVec 8) := [0x00, 0x01, 0x02, 0x03, 0x04, 0x05, 0x06, 0x10, 0x11, 0x12, 0x13]

/-- R98 (a): the OP value is assigned. -/
def CmdFields.opAssigned (f : CmdFields) : Bool := assignedOps.contains f.op

/-- R98 (b), (c): an op that uses ALG has ALG 0, 1 or 2, and any other op has ALG 0. -/
def CmdFields.algLegal (f : CmdFields) : Bool :=
  if 1 ≤ f.op.toNat ∧ f.op.toNat ≤ 5 then f.alg ≠ 3 else f.alg = 0

/-- R98 (d): SP is set on HEX_ENC only. -/
def CmdFields.spLegal (f : CmdFields) : Bool := f.op = 0x10 || !f.sp

/-- The legality predicate of R96. -/
def CmdFields.wellFormed (f : CmdFields) : Bool := f.rsvClear && f.opAssigned && f.algLegal && f.spLegal

/-- The transactions the bus accepts: 8 bits outside the register block only, 32 bits aligned only
(20_memory.md R64, R65). -/
def Txn.wellFormed : Txn → Bool
  | .rd8 a => 0x100 ≤ a.toNat
  | .wr8 a _ => 0x100 ≤ a.toNat
  | .rd32 a => a.toNat % 4 = 0
  | .wr32 a _ => a.toNat % 4 = 0

end Sys2Proof
end

