-- ==== Sys2Proof/Decode.lean ====
section
/-! DEFINITION. The decoder of command words, total on the 2^32 words and refusing by name, and the encoder
(30_encoding.md R90, R95 to R98, R100). -/

namespace Sys2Proof

/-- Why a word is illegal (30_encoding.md R98). Every one of them completes with the same code, ILLEGAL. -/
inductive Illegal where
  /-- a set bit in 31:11 (R98 e) -/
  | reservedBits
  /-- an OP value not in the table (R98 a) -/
  | unassignedOp
  /-- ALG = 3 with an op that uses ALG (R98 b) -/
  | reservedAlg
  /-- ALG not 0 with an op that does not use it (R98 c) -/
  | algNotUsed
  /-- SP = 1 with an op other than HEX_ENC (R98 d) -/
  | spNotUsed
deriving DecidableEq, Repr

/-- What the decoder answers. -/
inductive Decoded where
  | instr (i : Instr)
  | illegal (why : Illegal)
deriving DecidableEq, Repr

/-- The instruction, where there is one. -/
def Decoded.toOption : Decoded → Option Instr
  | .instr i => some i
  | .illegal _ => none

/-- The fields of a command word (R90). -/
def fieldsOf (w : Word) : CmdFields :=
  { op := w.extractLsb' 0 8, alg := w.extractLsb' 8 2, sp := w.getLsbD 10, rsv := w.extractLsb' 11 21 }

/-- The word with given fields: `OP | ALG << 8 | SP << 10` with the reserved bits above (R90, R100). -/
def wordOf (f : CmdFields) : Word := f.rsv ++ BitVec.ofBool f.sp ++ f.alg ++ f.op

/-- An op that uses ALG, by its algorithm (R91). -/
def decodeAlg (alg : BitVec 2) (sha256 sha1 md5 : Instr) : Decoded :=
  match alg.toNat with
  | 0 => .instr sha256
  | 1 => .instr sha1
  | 2 => .instr md5
  | _ => .illegal .reservedAlg

/-- An op that does not use ALG (R98 c). -/
def decodePlain (alg : BitVec 2) (i : Instr) : Decoded :=
  if alg = 0 then .instr i else .illegal .algNotUsed

/-- An op other than HEX_ENC must have SP = 0 (R98 d). -/
def decodeNoSp (sp : Bool) (d : Decoded) : Decoded := if sp then .illegal .spNotUsed else d

/-- The opcode map (R95) with the field checks of R96. -/
def decodeFields (f : CmdFields) : Decoded :=
  if f.rsv = 0 then
    match f.op.toNat with
    | 0x00 => decodeNoSp f.sp (decodePlain f.alg .nop)
    | 0x01 => decodeNoSp f.sp (decodeAlg f.alg .hashInitSha256 .hashInitSha1 .hashInitMd5)
    | 0x02 => decodeNoSp f.sp (decodeAlg f.alg .hashBlockSha256 .hashBlockSha1 .hashBlockMd5)
    | 0x03 => decodeNoSp f.sp (decodeAlg f.alg .hashFinalSha256 .hashFinalSha1 .hashFinalMd5)
    | 0x04 => decodeNoSp f.sp (decodeAlg f.alg .hashSha256 .hashSha1 .hashMd5)
    | 0x05 => decodeNoSp f.sp (decodeAlg f.alg .hmacSha256 .hmacSha1 .hmacMd5)
    | 0x06 => decodeNoSp f.sp (decodePlain f.alg .ctCmp)
    | 0x10 => decodePlain f.alg (if f.sp then .hexEncSp else .hexEnc)
    | 0x11 => decodeNoSp f.sp (decodePlain f.alg .hexDec)
    | 0x12 => decodeNoSp f.sp (decodePlain f.alg .b64Enc)
    | 0x13 => decodeNoSp f.sp (decodePlain f.alg .b64Dec)
    | _ => .illegal .unassignedOp
  else .illegal .reservedBits

/-- The decoder: every command is one 32-bit word (R99). -/
def decode (w : Word) : Decoded := decodeFields (fieldsOf w)

/-- The ALG field of an algorithm (R91). -/
def Alg.bits : Alg → BitVec 2
  | .sha256 => 0
  | .sha1 => 1
  | .md5 => 2

/-- Fields of an op that uses ALG. -/
def algFields (op : BitVec 8) (a : Alg) : CmdFields := { op := op, alg := a.bits, sp := false, rsv := 0 }

/-- Fields of an op that does not use ALG. -/
def plainFields (op : BitVec 8) (sp : Bool) : CmdFields := { op := op, alg := 0, sp := sp, rsv := 0 }

/-- The fields of each command (R95, R97). -/
def Instr.fields : Instr → CmdFields
  | .nop => plainFields 0x00 false
  | .hashInitSha256 => algFields 0x01 .sha256
  | .hashInitSha1 => algFields 0x01 .sha1
  | .hashInitMd5 => algFields 0x01 .md5
  | .hashBlockSha256 => algFields 0x02 .sha256
  | .hashBlockSha1 => algFields 0x02 .sha1
  | .hashBlockMd5 => algFields 0x02 .md5
  | .hashFinalSha256 => algFields 0x03 .sha256
  | .hashFinalSha1 => algFields 0x03 .sha1
  | .hashFinalMd5 => algFields 0x03 .md5
  | .hashSha256 => algFields 0x04 .sha256
  | .hashSha1 => algFields 0x04 .sha1
  | .hashMd5 => algFields 0x04 .md5
  | .hmacSha256 => algFields 0x05 .sha256
  | .hmacSha1 => algFields 0x05 .sha1
  | .hmacMd5 => algFields 0x05 .md5
  | .ctCmp => plainFields 0x06 false
  | .hexEnc => plainFields 0x10 false
  | .hexEncSp => plainFields 0x10 true
  | .hexDec => plainFields 0x11 false
  | .b64Enc => plainFields 0x12 false
  | .b64Dec => plainFields 0x13 false

/-- The encoder (R100). -/
def encode (i : Instr) : Word := wordOf i.fields

/-- The 22 commands. -/
def allInstrs : List Instr :=
  [.nop, .hashInitSha256, .hashInitSha1, .hashInitMd5, .hashBlockSha256, .hashBlockSha1, .hashBlockMd5,
    .hashFinalSha256, .hashFinalSha1, .hashFinalMd5, .hashSha256, .hashSha1, .hashMd5, .hmacSha256, .hmacSha1,
    .hmacMd5, .ctCmp, .hexEnc, .hexEncSp, .hexDec, .b64Enc, .b64Dec]

/-- The command word that the opcode table's `nbits` bits of `w` stand for: one 32-bit register write (R90). -/
def tableWord (nbits w : Nat) : Word := BitVec.ofNat 32 (w % 2 ^ nbits)

/-- What the decoder reads from an opcode table row's word; bits beyond one word make no command (R99). -/
def decodeTableWord (nbits w : Nat) : Option Instr :=
  if w % 2 ^ nbits < 2 ^ 32 then (decode (tableWord nbits w)).toOption else none

end Sys2Proof
end

