-- ==== Sys2Proof/Machine/Bus.lean ====
section
/-! DEFINITION. Host bus transactions: the aperture map, register reads and writes, the BUF window, what happens while
BUSY, the accept, the soft reset and its abort (20_memory.md R60 to R70, 10_state.md R21 to R31, 70_reset_and_hazards.md
R343, R344). -/

namespace Sys2Proof.Machine

open Sys2Proof

/-! ### The maps -/

/-- The offset of a register (10_state.md R21). -/
def Reg.offset : Reg → Nat
  | .id => 0x000
  | .bufsz => 0x004
  | .ctrl => 0x008
  | .status => 0x00C
  | .cmd => 0x010
  | .src0Addr => 0x014
  | .src0Len => 0x018
  | .src1Addr => 0x01C
  | .src1Len => 0x020
  | .dstAddr => 0x024
  | .dstCap => 0x028
  | .outLen => 0x02C
  | .result => 0x030
  | .msgBitsLo => 0x038
  | .msgBitsHi => 0x03C
  | .state i => 0x040 + 4 * i.val

/-- The registers of the map, in offset order (10_state.md R21). -/
def allRegs : List Reg :=
  [.id, .bufsz, .ctrl, .status, .cmd, .src0Addr, .src0Len, .src1Addr, .src1Len, .dstAddr, .dstCap, .outLen, .result,
    .msgBitsLo, .msgBitsHi, .state 0, .state 1, .state 2, .state 3, .state 4, .state 5, .state 6, .state 7]

/-- The register at an offset of the register block; none for the reserved offsets 0x034 and 0x060 to 0x0FC
(10_state.md R21, R31). -/
def regAt (off : Nat) : Option Reg := allRegs.find? fun r => Reg.offset r = off

/-- What a host address is (20_memory.md R61). -/
inductive Region where
  | regs (off : Nat)
  | reserved
  | buf (i : Nat)
deriving DecidableEq, Repr

/-- The aperture map (20_memory.md R61, R62). -/
def State.region (s : State) (a : HostAddr) : Region :=
  if a.toNat < 0x100 then .regs a.toNat
  else if a.toNat < 0x8000 then .reserved
  else if a.toNat < 0x8000 + s.bufSize then .buf (a.toNat - 0x8000)
  else .reserved

/-- The platform address of an aperture address (20_memory.md R61): no rule depends on it. -/
def platformAddress (a : HostAddr) : Nat := Config.engineBase + a.toNat

/-- Does the bus accept a transaction of this size at this address (20_memory.md R64, R65)? -/
def busAccepts (a : HostAddr) (is32 : Bool) : Bool :=
  if a.toNat < 0x100 then is32 && a.toNat % 4 == 0 else !is32 || a.toNat % 4 == 0

/-! ### The registers -/

/-- `STATE[i]` (00_scope.md R11). -/
def Chain.get (c : Chain) (i : Fin 8) : Word :=
  match i with
  | 0 => c.s0
  | 1 => c.s1
  | 2 => c.s2
  | 3 => c.s3
  | 4 => c.s4
  | 5 => c.s5
  | 6 => c.s6
  | 7 => c.s7

/-- `STATE[i] <- v` (00_scope.md R11). -/
def Chain.set (c : Chain) (i : Fin 8) (v : Word) : Chain :=
  match i with
  | 0 => { c with s0 := v }
  | 1 => { c with s1 := v }
  | 2 => { c with s2 := v }
  | 3 => { c with s3 := v }
  | 4 => { c with s4 := v }
  | 5 => { c with s5 := v }
  | 6 => { c with s6 := v }
  | 7 => { c with s7 := v }

/-- What a read of a register returns, whatever BUSY is (10_state.md R22 to R30; 20_memory.md R68, R70). -/
def State.readReg (s : State) : Reg → Word
  | .id => 0x4E484231
  | .bufsz => BitVec.ofNat 32 s.bufSize
  | .ctrl => s.ctrlWord
  | .status => s.statusWord
  | .cmd => s.cmd
  | .src0Addr => s.src0Addr
  | .src0Len => s.src0Len
  | .src1Addr => s.src1Addr
  | .src1Len => s.src1Len
  | .dstAddr => s.dstAddr
  | .dstCap => s.dstCap
  | .outLen => s.outLen
  | .result => s.resultWord
  | .msgBitsLo => s.msgBits.extractLsb' 0 32
  | .msgBitsHi => s.msgBits.extractLsb' 32 32
  | .state i => s.chain.get i

/-- What a read at an offset of the register block returns; reserved offsets read 0 (10_state.md R31). -/
def State.readOffset (s : State) (off : Nat) : Word :=
  match regAt off with
  | some r => s.readReg r
  | none => 0

/-- The bytes an abort leaves unspecified: the destination range as far as it lies inside BUF
(70_reset_and_hazards.md R344). -/
def State.abortRange (s : State) : List Nat :=
  (List.range (min s.dstCap.toNat (s.bufSize - s.dstAddr.toNat))).map fun i => s.dstAddr.toNat + i

/-- Does the pending command write a destination (40_control.md R123)? DEDUCED, unsafe (log entry 8): an illegal word writes
none, from R123 and R125. -/
def State.pendingWritesDst (s : State) : Bool :=
  match decode s.cmd with
  | .instr i => writesDst i
  | .illegal _ => false

/-- The abort of a pending command: every byte of its destination range becomes a draw of its own
(70_reset_and_hazards.md R344). -/
def State.abort (s : State) : State :=
  if s.pendingWritesDst then
    { s with
      buf := s.buf.writeBytes s.dstAddr.toNat (s.abortRange.map (Config.abortByte s.draws))
      draws := s.draws + 1 }
  else s

/-- The soft reset (70_reset_and_hazards.md R343). -/
def State.softReset (s : State) : State := (if s.busy then s.abort else s).clearRegisters

/-- A CTRL write: bit 1 is the soft reset, which discards bit 0; else bit 0 is IRQ_EN (10_state.md R24). -/
def State.ctrlWrite (s : State) (w : Word) : State :=
  if w.getLsbD 1 then s.softReset else { s with irqEn := w.getLsbD 0 }

/-- A write of MSGBITS_LO (10_state.md R29). -/
def State.writeMsgBitsLo (s : State) (w : Word) : State := { s with msgBits := s.msgBits.extractLsb' 32 32 ++ w }

/-- A write of MSGBITS_HI (10_state.md R29). -/
def State.writeMsgBitsHi (s : State) (w : Word) : State := { s with msgBits := w ++ s.msgBits.extractLsb' 0 32 }

/-- A register write while BUSY = 0 (10_state.md R22 to R35): CMD accepts, RO registers ignore it. -/
def State.writeRegIdle (s : State) (w : Word) : Reg → State
  | .id => s
  | .bufsz => s
  | .ctrl => s.ctrlWrite w
  | .status => s.statusWrite w
  | .cmd => s.accept w
  | .src0Addr => { s with src0Addr := w }
  | .src0Len => { s with src0Len := w }
  | .src1Addr => { s with src1Addr := w }
  | .src1Len => { s with src1Len := w }
  | .dstAddr => { s with dstAddr := w }
  | .dstCap => { s with dstCap := w }
  | .outLen => s
  | .result => s
  | .msgBitsLo => s.writeMsgBitsLo w
  | .msgBitsHi => s.writeMsgBitsHi w
  | .state i => { s with chain := s.chain.set i w }

/-- A register write while BUSY = 1: CTRL and STATUS act, every other one is dropped and sets OVR (20_memory.md R70). -/
def State.writeRegBusy (s : State) (w : Word) : Reg → State
  | .ctrl => s.ctrlWrite w
  | .status => s.statusWrite w
  | _ => s.setOvr

/-- A write at an offset of the register block; at a reserved offset it has no effect, except OVR while BUSY
(10_state.md R31). -/
def State.writeOffset (s : State) (off : Nat) (w : Word) : State :=
  match regAt off, s.busy with
  | some r, false => s.writeRegIdle w r
  | some r, true => s.writeRegBusy w r
  | none, false => s
  | none, true => s.setOvr

/-! ### The BUF window -/

/-- A BUF read answered with a draw while BUSY = 1 (20_memory.md R70). -/
def State.drawRead (s : State) : State := { s with ovr := true, draws := s.draws + 1 }

/-- A byte read of the BUF window. -/
def State.readBuf8 (s : State) (i : Nat) : State × Reply :=
  if s.busy then (s.drawRead, .okayRead8 ((Config.busyRead s.draws).extractLsb' 0 8))
  else (s, .okayRead8 (s.buf.read i))

/-- A word read of the BUF window, little-endian lanes (20_memory.md R66). -/
def State.readBuf32 (s : State) (i : Nat) : State × Reply :=
  if s.busy then (s.drawRead, .okayRead32 (Config.busyRead s.draws))
  else (s, .okayRead32 (ofLE (s.buf.read i) (s.buf.read (i + 1)) (s.buf.read (i + 2)) (s.buf.read (i + 3))))

/-- A write of bytes into the BUF window: dropped with OVR while BUSY = 1 (20_memory.md R66, R70). -/
def State.writeBuf (s : State) (i : Nat) (bs : Bytes) : State :=
  if s.busy then s.setOvr else { s with buf := s.buf.writeBytes i bs }

/-! ### One transaction -/

/-- An accepted byte read. In the register block none is accepted (20_memory.md R64). -/
def State.read8 (s : State) (a : HostAddr) : State × Reply :=
  match s.region a with
  | .regs _ => (s, .busErr)
  | .reserved => (s, .okayRead8 0)
  | .buf i => s.readBuf8 i

/-- An accepted word read. -/
def State.read32 (s : State) (a : HostAddr) : State × Reply :=
  match s.region a with
  | .regs off => (s, .okayRead32 (s.readOffset off))
  | .reserved => (s, .okayRead32 0)
  | .buf i => s.readBuf32 i

/-- An accepted byte write. In the register block none is accepted (20_memory.md R64). -/
def State.write8 (s : State) (a : HostAddr) (d : Byte) : State × Reply :=
  match s.region a with
  | .regs _ => (s, .busErr)
  | .reserved => (s, .okayWrite)
  | .buf i => (s.writeBuf i [d], .okayWrite)

/-- An accepted word write. -/
def State.write32 (s : State) (a : HostAddr) (d : Word) : State × Reply :=
  match s.region a with
  | .regs off => (s.writeOffset off d, .okayWrite)
  | .reserved => (s, .okayWrite)
  | .buf i => (s.writeBuf i (le32 d), .okayWrite)

/-- One host bus transaction: its effect and its reply. BUSERR has no effect (20_memory.md R63). -/
def State.transact (s : State) : Txn → State × Reply
  | .rd8 a => if busAccepts a false then s.read8 a else (s, .busErr)
  | .rd32 a => if busAccepts a true then s.read32 a else (s, .busErr)
  | .wr8 a d => if busAccepts a false then s.write8 a d else (s, .busErr)
  | .wr32 a d => if busAccepts a true then s.write32 a d else (s, .busErr)

end Sys2Proof.Machine
end

