-- ==== Sys2Proof/Machine/HostAgent.lean ====
section
/-! DEFINITION. The HOST agent and the interleaving of the two agents (00_scope.md R16, 20_memory.md R71, 30_encoding.md
R102, 60_exceptions.md R316). -/

namespace Sys2Proof.Machine

open Sys2Proof

/-- Record what a transaction returned. -/
def State.addReply (s : State) (r : Reply) : State := { s with replies := r :: s.replies }

/-- The address of the STATUS register (10_state.md R21). -/
def statusAddr : HostAddr := 0x000C

/-- The host issues one transaction and records its reply. -/
def State.issue (s : State) (t : Txn) : State := (s.transact t).1.addReply (s.transact t).2

/-- One step of the host: its next transaction, or one turn of WAIT, which reads STATUS and is done when bit 0 of what
it read is 0 (30_encoding.md R101, R102). -/
def hostStep (s : State) : State :=
  match s.host with
  | [] => s
  | .txn t :: rest => { s with host := rest }.issue t
  | .wait :: rest => { s with host := if s.statusWord.getLsbD 0 then s.host else rest }.issue (.rd32 statusAddr)

/-- Can both agents move? -/
def State.contested (s : State) : Bool := s.busy && !s.host.isEmpty

/-- The agent that moves next. The ENGINE can move exactly when BUSY = 1 (40_control.md R122), the host when it has an
item left. Where both can, `turns` says which, and once it is used up the ENGINE does (00_scope.md R17). -/
def State.nextAgent (s : State) : Option Agent :=
  if s.contested then some (s.turns.headD .engine)
  else if s.busy then some .engine
  else if s.host.isEmpty then none
  else some .host

/-- A choice between the agents uses up one entry of `turns`. -/
def State.takeTurn (s : State) : State := if s.contested then { s with turns := s.turns.tail } else s

end Sys2Proof.Machine
end

