-- ==== Sys2Proof/Machine/Engine.lean ====
section
/-! DEFINITION. The ENGINE agent's step, and the accept that a fetched word stands for (40_control.md R121, R122, R125). -/

namespace Sys2Proof.Machine

open Sys2Proof

/-- The ENGINE step of a pending command: the word in CMD is run to its completion, and an illegal word completes with
ILLEGAL (40_control.md R122, R125). -/
def engineStep (s : State) : Host.Outcome State Fault Refusal :=
  match decode s.cmd with
  | .instr i => exec i s
  | .illegal _ => .next (s.raiseError .illegal 0)

/-- One transition of the machine: the agent whose turn it is moves; when neither can, nothing changes
(40_control.md R120, 60_exceptions.md R316). -/
def transition (s : State) : Host.Outcome State Fault Refusal :=
  match s.nextAgent with
  | some .engine => engineStep s.takeTurn
  | some .host => .next (hostStep s.takeTurn)
  | none => .next s

/-- The command word accepted, with the ENGINE to move next. -/
def State.acceptNow (s : State) (w : Word) : State := { s.accept w with turns := [] }

end Sys2Proof.Machine
end

