-- ==== Sys2Proof/Machine/Step.lean ====
section
/-! DEFINITION. The step of the machine, and where it takes its next command from: CMD, at an accept (20_memory.md R74). -/

namespace Sys2Proof.Machine

open Sys2Proof

/-- One step: a host transaction, an ENGINE step, or nothing when neither agent can move. -/
def step (s : State) : Host.Outcome State Fault Refusal := transition s

/-- The command word stored in CMD as its accept stores it, with the ENGINE to move next (40_control.md R121). -/
def State.withFetchWord (s : State) (nbits w : Nat) : State := s.acceptNow (tableWord nbits w)

end Sys2Proof.Machine
end

