-- ==== Sys2Proof/Machine/HostProgram.lean ====
section
/-! DEFINITION. The syntax of commands and host programs: mnemonics, register names, and the pseudo-operations with their
expansions (30_encoding.md R100 to R102). -/

namespace Sys2Proof.Machine

open Sys2Proof

/-- The mnemonic `OP[.ALG][.SP]` of a command (30_encoding.md R100). -/
def mnemonic : Instr → String
  | .nop => "NOP"
  | .hashInitSha256 => "HASH_INIT.SHA256"
  | .hashInitSha1 => "HASH_INIT.SHA1"
  | .hashInitMd5 => "HASH_INIT.MD5"
  | .hashBlockSha256 => "HASH_BLOCK.SHA256"
  | .hashBlockSha1 => "HASH_BLOCK.SHA1"
  | .hashBlockMd5 => "HASH_BLOCK.MD5"
  | .hashFinalSha256 => "HASH_FINAL.SHA256"
  | .hashFinalSha1 => "HASH_FINAL.SHA1"
  | .hashFinalMd5 => "HASH_FINAL.MD5"
  | .hashSha256 => "HASH.SHA256"
  | .hashSha1 => "HASH.SHA1"
  | .hashMd5 => "HASH.MD5"
  | .hmacSha256 => "HMAC.SHA256"
  | .hmacSha1 => "HMAC.SHA1"
  | .hmacMd5 => "HMAC.MD5"
  | .ctCmp => "CT_CMP"
  | .hexEnc => "HEX_ENC"
  | .hexEncSp => "HEX_ENC.SP"
  | .hexDec => "HEX_DEC"
  | .b64Enc => "B64_ENC"
  | .b64Dec => "B64_DEC"

/-- Assemble a mnemonic; a mnemonic without its suffix is an error (30_encoding.md R100). -/
def assemble (t : String) : Option Instr := allInstrs.find? fun i => mnemonic i = t

/-- The aperture address of a register (10_state.md R21). -/
def regAddr (r : Reg) : HostAddr := BitVec.ofNat 16 (Reg.offset r)

/-- `WR32 <reg>, <value>` (R101). -/
def wr32 (r : Reg) (v : Word) : HostItem := .txn (.wr32 (regAddr r) v)

/-- `RD32 <reg>` (R101). -/
def rd32 (r : Reg) : HostItem := .txn (.rd32 (regAddr r))

/-- `WR32 @<addr>, <value>` (R101). -/
def wr32At (a : HostAddr) (v : Word) : HostItem := .txn (.wr32 a v)

/-- `WR8 @<addr>, <value>` (R101). -/
def wr8At (a : HostAddr) (v : Byte) : HostItem := .txn (.wr8 a v)

/-- `RD32 @<addr>` (R101). -/
def rd32At (a : HostAddr) : HostItem := .txn (.rd32 a)

/-- `RD8 @<addr>` (R101). -/
def rd8At (a : HostAddr) : HostItem := .txn (.rd8 a)

/-- `RUN <cmd>` (R102). -/
def runCmd (i : Instr) : List HostItem := [wr32 .cmd (encode i), .wait]

/-- `BUFHEX <i>, <hex bytes>`: byte k goes to `0x8000 + i + k` (R102). DESIGN CHOICE, unsafe (log entry 16): where that
number is above 0xFFFF the spec gives the line no meaning, and the model takes the address mod 2^16, so that i = 0x10000
writes BUF[0]. -/
def bufHex : Nat → Bytes → List HostItem
  | _, [] => []
  | i, b :: bs => wr8At (BitVec.ofNat 16 (0x8000 + i)) b :: bufHex (i + 1) bs

/-- `BUFSTR <i>, "<text>"` (R102). DESIGN CHOICE above 0xFFFF as for `bufHex` (log entry 16). -/
def bufStr (i : Nat) (t : String) : List HostItem := bufHex i (ascii t)

/-- `SRC0 <a>, <n>` (R102). -/
def src0 (a n : Word) : List HostItem := [wr32 .src0Addr a, wr32 .src0Len n]

/-- `SRC1 <a>, <n>` (R102). -/
def src1 (a n : Word) : List HostItem := [wr32 .src1Addr a, wr32 .src1Len n]

/-- `DST <a>, <n>` (R102). -/
def dst (a n : Word) : List HostItem := [wr32 .dstAddr a, wr32 .dstCap n]

/-- `ACK`: clear DONE (R102). -/
def ack : HostItem := wr32 .status 0x00000002

end Sys2Proof.Machine
end

