-- ==== Sys2Proof/Machine/Ports.lean ====
section
/-! DEFINITION. The signal-level ports as the transaction level sees them (20_memory.md R77): what a bus request means as
a transaction, and what the ports show of a reply. The handshake, the clock and rst_n are not modelled (R371, U13). -/

namespace Sys2Proof.Machine

open Sys2Proof

/-- bus_write, bus_addr, bus_size and bus_wdata (R77). -/
structure BusRequest where
  write : Bool
  addr : HostAddr
  /-- false is 8 bits, true is 32 bits -/
  size : Bool
  wdata : Word
deriving DecidableEq, Repr

/-- bus_rdata and bus_err (R77). -/
structure BusResponse where
  rdata : Word
  err : Bool
deriving DecidableEq, Repr

/-- The transaction of a request: an 8-bit write uses bits 7:0 (R77). -/
def BusRequest.txn (r : BusRequest) : Txn :=
  match r.write, r.size with
  | false, false => .rd8 r.addr
  | false, true => .rd32 r.addr
  | true, false => .wr8 r.addr (r.wdata.extractLsb' 0 8)
  | true, true => .wr32 r.addr r.wdata

/-- What the ports show of a reply: an 8-bit read has zeros above its byte (R77); the data of a write and of BUSERR is
not given (R63, U6). -/
def Reply.response : Reply → BusResponse
  | .okayWrite => { rdata := Config.portRdata, err := false }
  | .okayRead8 b => { rdata := b.setWidth 32, err := false }
  | .okayRead32 w => { rdata := w, err := false }
  | .busErr => { rdata := Config.portRdata, err := true }

end Sys2Proof.Machine
end

