-- ==== Sys2Proof/Machine/Timing.lean ====
section
/-! DEFINITION. The latency parameter LAT (00_scope.md R7, R17; 44_mac.md R283, R284). The machine has no time: no step
depends on it (70_reset_and_hazards.md R370). -/

namespace Sys2Proof.Machine

open Sys2Proof

/-- LAT of the pending command: at least 1 and finite. `other` stands for whatever is not in State. For CT_CMP LAT is a
function of the two lengths only (R283); for every other word it may depend on every register, STATE and MSGBITS among
them, on the bytes of BUF and on `other` (R284). -/
def State.latency (s : State) (other : Nat) : Nat :=
  1 + if decode s.cmd = .instr .ctCmp then Config.latCtCmp s.src0Len s.src1Len
    else Config.latOther (allRegs.map s.readReg) s.buf other

end Sys2Proof.Machine
end

