-- ==== Sys2Proof/Safety.lean ====
section
/-! DEFINITION. What claims are stated in: the invariant, what a command leaves alone, how a command ends, the commands of
a hash algorithm, streams. -/

namespace Sys2Proof.Machine

open Sys2Proof

/-- BUF_SIZE is a multiple of 64 from 64 to 32768 (00_scope.md R7). -/
abbrev State.sizeLegal (s : State) : Prop := s.bufSize % 64 = 0 ∧ 64 ≤ s.bufSize ∧ s.bufSize ≤ 32768

/-- The invariant: a legal BUF_SIZE, BUF in canonical form, and no byte listed outside BUF (00_scope.md R7, 10_state.md
R33). -/
abbrev State.Inv (s : State) : Prop := s.sizeLegal ∧ s.buf.wf = true ∧ s.buf.within s.bufSize = true

/-- A range inside BUF (40_control.md R124). -/
abbrev State.fits (s : State) (addr n : Word) : Prop := addr.toNat + n.toNat ≤ s.bufSize

/-- The first source passes its range check. -/
abbrev State.src0Fits (s : State) : Prop := s.fits s.src0Addr s.src0Len

/-- The second source passes its range check. -/
abbrev State.src1Fits (s : State) : Prop := s.fits s.src1Addr s.src1Len

/-- The destination passes its range check. -/
abbrev State.dstFits (s : State) : Prop := s.fits s.dstAddr s.dstCap

/-- What every command leaves unchanged: the parameter, CTRL, STATUS.OVR, CMD, the operand registers, and the model's own
fields. -/
structure CommandFrame (s t : State) : Prop where
  bufSize : t.bufSize = s.bufSize
  irqEn : t.irqEn = s.irqEn
  ovr : t.ovr = s.ovr
  cmd : t.cmd = s.cmd
  src0Addr : t.src0Addr = s.src0Addr
  src0Len : t.src0Len = s.src0Len
  src1Addr : t.src1Addr = s.src1Addr
  src1Len : t.src1Len = s.src1Len
  dstAddr : t.dstAddr = s.dstAddr
  dstCap : t.dstCap = s.dstCap
  draws : t.draws = s.draws
  host : t.host = s.host
  turns : t.turns = s.turns
  replies : t.replies = s.replies

/-- A completion with a code and an OUT_LEN (40_control.md R127, R128). -/
structure Completed (t : State) (code : ErrCode) (n : Nat) : Prop where
  errCode : t.errCode = code
  outLen : t.outLen.toNat = n
  busy : t.busy = false
  done : t.done = true

/-- The state after an error completion: nothing but ERRCODE, OUT_LEN, BUSY and DONE changes (40_control.md R127). -/
def State.failed (s : State) (code : ErrCode) (n : Word) : State :=
  { s with errCode := code, outLen := n, busy := false, done := true }

/-- BUF after is BUF before with `out` written from index a on: every byte, inside and outside. -/
def BufWritten (s t : State) (a : Nat) (out : Bytes) : Prop :=
  (∀ k, k < out.length → t.buf.read (a + k) = out.getD k 0) ∧
    ∀ x, x < a ∨ a + out.length ≤ x → t.buf.read x = s.buf.read x

/-- BUF reads as before, at every index. -/
def BufSame (s t : State) : Prop := ∀ x, t.buf.read x = s.buf.read x

/-- The Base64 text of b, written out from 41_codec.md R160 and R161: of each group of m = 1, 2 or 3 bytes, taken with zero
bytes to three, the first m + 1 sextets as alphabet characters and the rest as '='. -/
abbrev Base64Text (text b : Bytes) : Prop :=
  text.length = 4 * ((b.length + 2) / 3) ∧
  ∀ q, q < (b.length + 2) / 3 → ∀ j, j < 4 →
    text.getD (4 * q + j) 0 =
      if j ≤ min 3 (b.length - 3 * q) then
        let v := ((b.getD (3 * q) 0).toNat * 2 ^ 16 + (b.getD (3 * q + 1) 0).toNat * 2 ^ 8 +
          (b.getD (3 * q + 2) 0).toNat) / 2 ^ (18 - 6 * j) % 64
        if v ≤ 25 then BitVec.ofNat 8 (0x41 + v)
        else if v ≤ 51 then BitVec.ofNat 8 (0x61 + (v - 26))
        else if v ≤ 61 then BitVec.ofNat 8 (0x30 + (v - 52))
        else if v = 62 then 0x2B
        else 0x2F
      else 0x3D

/-- HASH_INIT of an algorithm. -/
def hashInitOf : Alg → Instr
  | .sha256 => .hashInitSha256
  | .sha1 => .hashInitSha1
  | .md5 => .hashInitMd5

/-- HASH_BLOCK of an algorithm. -/
def hashBlockOf : Alg → Instr
  | .sha256 => .hashBlockSha256
  | .sha1 => .hashBlockSha1
  | .md5 => .hashBlockMd5

/-- HASH_FINAL of an algorithm. -/
def hashFinalOf : Alg → Instr
  | .sha256 => .hashFinalSha256
  | .sha1 => .hashFinalSha1
  | .md5 => .hashFinalMd5

/-- HASH of an algorithm. -/
def hashOf : Alg → Instr
  | .sha256 => .hashSha256
  | .sha1 => .hashSha1
  | .md5 => .hashMd5

/-- HMAC of an algorithm. -/
def hmacOf : Alg → Instr
  | .sha256 => .hmacSha256
  | .sha1 => .hmacSha1
  | .md5 => .hmacMd5

/-- A stream of an algorithm in progress: `Stream alg s m` says that s was reached by HASH_INIT and then HASH_BLOCKs that
completed OK over the bytes m, where between two commands the host may do anything that leaves (or puts back) STATE and
MSGBITS (43_digest_commands.md R245, 70_reset_and_hazards.md R366). -/
inductive Stream (alg : Alg) : State → Bytes → Prop where
  | init {s t : State} : exec (hashInitOf alg) s = .next t → Stream alg t []
  | block {r s t : State} {m : Bytes} : Stream alg r m → s.chain = r.chain → s.msgBits = r.msgBits →
      exec (hashBlockOf alg) s = .next t → t.errCode = .ok → Stream alg t (m ++ s.src0Bytes)

/-- Two states that give a command the same inputs: the parameter, the operand registers, STATE, MSGBITS and BUF. -/
structure SameInputs (s s' : State) : Prop where
  bufSize : s'.bufSize = s.bufSize
  src0Addr : s'.src0Addr = s.src0Addr
  src0Len : s'.src0Len = s.src0Len
  src1Addr : s'.src1Addr = s.src1Addr
  src1Len : s'.src1Len = s.src1Len
  dstAddr : s'.dstAddr = s.dstAddr
  dstCap : s'.dstCap = s.dstCap
  msgBits : s'.msgBits = s.msgBits
  chain : s'.chain = s.chain
  buf : s'.buf = s.buf

/-- A run of n steps from s to t, without a stop. -/
inductive Steps : Nat → State → State → Prop where
  | zero (s : State) : Steps 0 s s
  | succ {n : Nat} {s t u : State} : step s = .next t → Steps n t u → Steps (n + 1) s u

end Sys2Proof.Machine
end

