-- ==== Sys2Proof/Certificates/Slice0/Obligations.lean ====
section
/-! DEFINITION. The statements. -/

open Sys2Proof Sys2Proof.Machine

/-! ### Encoding -/

/-- 30_encoding.md R97: the 22 legal words with their exact values, and no other word decodes to a command. -/
def Obligations.LegalWordsAreTheTable : Prop :=
  ∀ (w : Word) (i : Instr), decode w = .instr i ↔
    (w, i) ∈ [((0x00000000 : Word), Instr.nop),
      (0x00000001, .hashInitSha256), (0x00000101, .hashInitSha1), (0x00000201, .hashInitMd5),
      (0x00000002, .hashBlockSha256), (0x00000102, .hashBlockSha1), (0x00000202, .hashBlockMd5),
      (0x00000003, .hashFinalSha256), (0x00000103, .hashFinalSha1), (0x00000203, .hashFinalMd5),
      (0x00000004, .hashSha256), (0x00000104, .hashSha1), (0x00000204, .hashMd5),
      (0x00000005, .hmacSha256), (0x00000105, .hmacSha1), (0x00000205, .hmacMd5),
      (0x00000006, .ctCmp), (0x00000010, .hexEnc), (0x00000410, .hexEncSp), (0x00000011, .hexDec),
      (0x00000012, .b64Enc), (0x00000013, .b64Dec)]

/-- 30_encoding.md R100, R97: decode and encode agree on all words and all commands: a word decodes to a command exactly
when it is that command's encoding. -/
def Obligations.DecodeEncodeAgree : Prop :=
  ∀ (w : Word) (i : Instr), decode w = .instr i ↔ w = encode i

/-- A few words written out from R90 and R95 decode to their commands. -/
def Obligations.WrittenWordsDecode : Prop :=
  decode 0b00000000000000000000000000000000 = .instr .nop ∧
  decode 0b00000000000000000000000100000010 = .instr .hashBlockSha1 ∧
  decode 0b00000000000000000000001000000101 = .instr .hmacMd5 ∧
  decode 0b00000000000000000000010000010000 = .instr .hexEncSp ∧
  decode 0b00000000000000000000000000010011 = .instr .b64Dec

/-- 30_encoding.md R96: the legality predicate, field by field, is exactly what the decoder accepts; an illegal word is
accepted by an idle engine like any other, and its ENGINE step completes with ILLEGAL and changes nothing else. -/
def Obligations.IllegalWordsCompleteIllegal : Prop :=
  ∀ w : Word,
    let op := w.extractLsb' 0 8
    let alg := w.extractLsb' 8 2
    let legal := w.extractLsb' 11 21 = 0 ∧
      op ∈ ([0x00, 0x01, 0x02, 0x03, 0x04, 0x05, 0x06, 0x10, 0x11, 0x12, 0x13] : List (BitVec 8)) ∧
      (if op ∈ ([0x01, 0x02, 0x03, 0x04, 0x05] : List (BitVec 8)) then alg ∈ ([0, 1, 2] : List (BitVec 2))
        else alg = 0) ∧
      (if op = 0x10 then True else w.getLsbD 10 = false)
    (legal ↔ ∃ i, decode w = .instr i) ∧
      ∀ s : State, s.busy = false →
        s.transact (.wr32 0x0010 w) = ({ s with cmd := w, busy := true, done := false }, .okayWrite) ∧
        (¬ legal →
          engineStep { s with cmd := w, busy := true, done := false } =
            .next (({ s with cmd := w } : State).failed .illegal 0))

/-! ### The step -/

/-- When CMD holds the word of a command and it is the ENGINE's turn, the step is exec of that command, on the state with
the turn used up. -/
def Obligations.StepRunsDecodedCommand : Prop :=
  ∀ (s : State) (i : Instr), s.busy = true → decode s.cmd = .instr i →
    (s.host = [] → step s = exec i s) ∧
    (s.host ≠ [] → s.turns.headD .engine = .engine → step s = exec i { s with turns := s.turns.tail })

/-- 40_control.md R122: the machine never stops: whatever the state, a step answers a next state, and an ENGINE step
answers an idle state with DONE set. -/
def Obligations.StepAlwaysAnswersNext : Prop :=
  ∀ s : State, (∃ t, step s = .next t) ∧
    ∃ t, engineStep s = .next t ∧ t.busy = false ∧ t.done = true

/-- Every step keeps the invariant: BUF_SIZE legal, BUF canonical, nothing listed outside BUF. -/
def Obligations.InvariantKeptByEveryStep : Prop :=
  ∀ s t : State, s.Inv → step s = .next t → t.Inv

/-- The invariant holds after power-on reset. -/
def Obligations.InvariantAtReset : Prop := State.reset.Inv

/-- 60_exceptions.md R329, 70_reset_and_hazards.md R341: an idle engine with no host transaction to come changes
nothing. -/
def Obligations.IdlenessChangesNothing : Prop :=
  ∀ s : State, s.busy = false → s.host = [] → step s = .next s

/-- 60_exceptions.md R316, third row: a CMD write issued by the host against the pending command is dropped with OVR when
it comes first, and accepted as a new command when the ENGINE step comes first. -/
def Obligations.CmdWriteRacesTheCompletion : Prop :=
  ∀ (s : State) (w : Word) (rest : List HostItem) (i : Instr), s.busy = true → decode s.cmd = .instr i →
    s.host = .txn (.wr32 0x0010 w) :: rest →
    (∀ ts, s.turns = .host :: ts →
      step s = .next { s with host := rest, turns := ts, ovr := true, replies := .okayWrite :: s.replies }) ∧
    (s.turns.headD .engine = .engine →
      ∃ t u, step s = .next t ∧ exec i { s with turns := s.turns.tail } = .next t ∧ step t = .next u ∧
        u.cmd = w ∧ u.busy = true ∧ u.done = false ∧ u.ovr = s.ovr ∧ u.host = rest)

/-- 30_encoding.md R102: WAIT reads STATUS and repeats as long as bit 0 of what it read is 1. -/
def Obligations.WaitPollsStatus : Prop :=
  ∀ (s : State) (rest : List HostItem), s.host = .wait :: rest →
    hostStep s = { s with host := if s.busy then s.host else rest, replies := .okayRead32 s.statusWord :: s.replies }

/-! ### Completion and errors -/

/-- 40_control.md R127, 60_exceptions.md R302, R306: an error completion changes ERRCODE, OUT_LEN, BUSY and DONE only, and
OUT_LEN is 0 for every code but DST_OVF. -/
def Obligations.FailedCommandChangesNothingElse : Prop :=
  ∀ (i : Instr) (s t : State), exec i s = .next t → t.errCode ≠ .ok →
    t = s.failed t.errCode t.outLen ∧ (t.errCode ≠ .dstOvf → t.outLen = 0)

/-- Every command completes, and leaves unchanged what no command writes: CTRL, STATUS.OVR, CMD, the operand registers,
the host and its schedule; RESULT unless it is CT_CMP; STATE and MSGBITS unless it is a digest command or HMAC. -/
def Obligations.EveryCommandKeepsTheFrame : Prop :=
  ∀ (i : Instr) (s : State), ∃ t, exec i s = .next t ∧ t.busy = false ∧ t.done = true ∧ CommandFrame s t ∧
    (i ≠ .ctCmp → t.resultEq = s.resultEq) ∧
    (i ∈ [Instr.nop, .ctCmp, .hexEnc, .hexEncSp, .hexDec, .b64Enc, .b64Dec] →
      t.chain = s.chain ∧ t.msgBits = s.msgBits)

/-- 20_memory.md R69: a command writes BUF only inside [DST_ADDR, DST_ADDR + OUT_LEN) of a success; a failed command, and a
command without a destination, writes no byte. -/
def Obligations.BufWrittenOnlyInsideDestination : Prop :=
  ∀ (i : Instr) (s t : State) (a : Nat), exec i s = .next t →
    (a < s.dstAddr.toNat ∨ s.dstAddr.toNat + t.outLen.toNat ≤ a ∨ t.errCode ≠ .ok ∨ writesDst i = false) →
    t.buf.read a = s.buf.read a

/-- 60_exceptions.md R301: which codes each command can report (ILLEGAL is reported by no legal command). -/
def Obligations.ErrorCodesPerCommand : Prop :=
  ∀ (i : Instr) (s t : State), exec i s = .next t →
    t.errCode ≠ .illegal ∧
    (t.errCode = .range → i ∉ [Instr.nop, .hashInitSha256, .hashInitSha1, .hashInitMd5]) ∧
    (t.errCode = .length → i ∈ [Instr.hashBlockSha256, .hashBlockSha1, .hashBlockMd5]) ∧
    (t.errCode = .decode → i ∈ [Instr.hexDec, .b64Dec]) ∧
    (t.errCode = .dstOvf →
      i ∈ [Instr.hashFinalSha256, .hashFinalSha1, .hashFinalMd5, .hashSha256, .hashSha1, .hashMd5, .hmacSha256,
        .hmacSha1, .hmacMd5, .hexEnc, .hexEncSp, .hexDec, .b64Enc, .b64Dec])

/-- 40_control.md R123 to R125: a command ends in RANGE exactly when a range it uses runs past BUF, in unbounded
arithmetic; then nothing else changes, whatever its other operands hold. -/
def Obligations.RangeErrorExactly : Prop :=
  ∀ (i : Instr) (s : State),
    let src0 := i ∉ [Instr.nop, .hashInitSha256, .hashInitSha1, .hashInitMd5]
    let src1 := i ∈ [Instr.hmacSha256, .hmacSha1, .hmacMd5, .ctCmp]
    let dst := i ∈ [Instr.hashFinalSha256, .hashFinalSha1, .hashFinalMd5, .hashSha256, .hashSha1, .hashMd5,
      .hmacSha256, .hmacSha1, .hmacMd5, .hexEnc, .hexEncSp, .hexDec, .b64Enc, .b64Dec]
    let bad := (src0 ∧ s.bufSize < s.src0Addr.toNat + s.src0Len.toNat) ∨
      (src1 ∧ s.bufSize < s.src1Addr.toNat + s.src1Len.toNat) ∨
      (dst ∧ s.bufSize < s.dstAddr.toNat + s.dstCap.toNat)
    (bad → exec i s = .next (s.failed .range 0)) ∧
      (¬ bad → ∃ t, exec i s = .next t ∧ t.errCode ≠ .range)

/-- 40_control.md R130, R127: a digest or MAC command whose operands are in range and whose destination is too small for
the digest ends in DST_OVF, records the digest length, and changes nothing else. -/
def Obligations.DigestOverflowRecordsNeededLength : Prop :=
  ∀ (alg : Alg) (i : Instr) (s : State), i = hashFinalOf alg ∨ i = hashOf alg ∨ i = hmacOf alg →
    s.src0Fits → s.dstFits → (i = hmacOf alg → s.src1Fits) → s.dstCap.toNat < digestLen alg →
    exec i s = .next (s.failed .dstOvf (BitVec.ofNat 32 (digestLen alg)))

/-- The outcome of a command depends on nothing but the parameter, the operand registers, STATE, MSGBITS and BUF
(43_digest_commands.md R245, 70_reset_and_hazards.md R366). -/
def Obligations.CommandsDependOnInputsOnly : Prop :=
  ∀ (i : Instr) (s s' t t' : State), SameInputs s s' → exec i s = .next t → exec i s' = .next t' →
    t'.buf = t.buf ∧ t'.chain = t.chain ∧ t'.msgBits = t.msgBits ∧ t'.errCode = t.errCode ∧ t'.outLen = t.outLen ∧
      (i = .ctCmp → t.errCode = .ok → t'.resultEq = t.resultEq)

/-! ### Control -/

/-- 40_control.md R131: NOP is the word 0; it completes in every state, whatever the operand registers hold, and writes the
completion fields only, which raises irq when IRQ_EN = 1. A word other than 0 whose OP is 0 is not NOP: it completes with
ILLEGAL. -/
def Obligations.NopCompletes : Prop :=
  encode .nop = 0x00000000 ∧
  (∀ s : State, ∃ t, t = { s with errCode := .ok, outLen := 0, busy := false, done := true } ∧
    exec .nop s = .next t ∧ t.irq = s.irqEn) ∧
  ∀ s : State, s.cmd ≠ 0 → s.cmd.extractLsb' 0 8 = 0 →
    engineStep s = .next (s.failed .illegal 0)

/-! ### Digest -/

/-- 43_digest_commands.md R240 with the initial values of R194, R203, R209 and R215: HASH_INIT.SHA256, .SHA1 and .MD5 are
the words 0x1, 0x101 and 0x201; they complete in every state, whatever the operand registers hold. -/
def Obligations.HashInitLoadsInitialValues : Prop :=
  encode .hashInitSha256 = 0x00000001 ∧ encode .hashInitSha1 = 0x00000101 ∧ encode .hashInitMd5 = 0x00000201 ∧
  ∀ s : State,
    exec .hashInitSha256 s = .next { s with
      chain := ⟨0x6A09E667, 0xBB67AE85, 0x3C6EF372, 0xA54FF53A, 0x510E527F, 0x9B05688C, 0x1F83D9AB, 0x5BE0CD19⟩,
      msgBits := 0, errCode := .ok, outLen := 0, busy := false, done := true } ∧
    exec .hashInitSha1 s = .next { s with
      chain := ⟨0x67452301, 0xEFCDAB89, 0x98BADCFE, 0x10325476, 0xC3D2E1F0, 0, 0, 0⟩,
      msgBits := 0, errCode := .ok, outLen := 0, busy := false, done := true } ∧
    exec .hashInitMd5 s = .next { s with
      chain := ⟨0x67452301, 0xEFCDAB89, 0x98BADCFE, 0x10325476, 0, 0, 0, 0⟩,
      msgBits := 0, errCode := .ok, outLen := 0, busy := false, done := true }

/-- 43_digest_commands.md R241: HASH_BLOCK (all three algorithms) over k whole blocks in range completes: STATE is folded
over the k blocks of BUF in address order and MSGBITS grows by 512 k mod 2^64. A length that is no multiple of 64 ends in
LENGTH and a range outside BUF in RANGE, and then nothing else changes. -/
def Obligations.HashBlockCompresses : Prop :=
  encode .hashBlockSha256 = 0x00000002 ∧ encode .hashBlockSha1 = 0x00000102 ∧ encode .hashBlockMd5 = 0x00000202 ∧
  ∀ (alg : Alg) (s : State),
    (∀ k : Nat, s.src0Fits → s.src0Len.toNat = 64 * k →
      exec (hashBlockOf alg) s = .next { s with
        chain := (List.range k).foldl
          (fun c j => compress alg c (s.buf.readBytes (s.src0Addr.toNat + 64 * j) 64)) s.chain
        msgBits := BitVec.ofNat 64 (s.msgBits.toNat + 512 * k)
        errCode := .ok, outLen := 0, busy := false, done := true }) ∧
    (s.src0Fits → s.src0Len.toNat % 64 ≠ 0 → exec (hashBlockOf alg) s = .next (s.failed .length 0)) ∧
    (¬ s.src0Fits → exec (hashBlockOf alg) s = .next (s.failed .range 0))

/-- 43_digest_commands.md R246: the block-compressor identity for one block. -/
def Obligations.BlockCompressorIdentity : Prop :=
  ∀ s : State, s.src0Fits → s.src0Len = 64 →
    let b := s.buf.readBytes s.src0Addr.toNat 64
    (∃ t, exec .hashBlockSha256 s = .next t ∧ t.errCode = .ok ∧ t.chain = c256 s.chain b) ∧
    (∃ t, exec .hashBlockSha1 s = .next t ∧ t.errCode = .ok ∧
      let v := c1 ⟨s.chain.s0, s.chain.s1, s.chain.s2, s.chain.s3, s.chain.s4⟩ b
      t.chain = ⟨v.a, v.b, v.c, v.d, v.e, s.chain.s5, s.chain.s6, s.chain.s7⟩) ∧
    (∃ t, exec .hashBlockMd5 s = .next t ∧ t.errCode = .ok ∧
      let v := c5 ⟨s.chain.s0, s.chain.s1, s.chain.s2, s.chain.s3⟩ b
      t.chain = ⟨v.a, v.b, v.c, v.d, s.chain.s4, s.chain.s5, s.chain.s6, s.chain.s7⟩)

/-- 42_digest_core.md R214, 10_state.md R30: over any number of blocks SHA-1 leaves words 5 to 7 of STATE unchanged and
MD5 words 4 to 7. -/
def Obligations.UnusedStateWordsUnchanged : Prop :=
  ∀ (c : Chain) (m : Bytes),
    (let d := compressAll .sha1 c m; d.s5 = c.s5 ∧ d.s6 = c.s6 ∧ d.s7 = c.s7) ∧
    (let d := compressAll .md5 c m; d.s4 = c.s4 ∧ d.s5 = c.s5 ∧ d.s6 = c.s6 ∧ d.s7 = c.s7)

/-- 42_digest_core.md R217: the padding adds one block when the tail's last part is at most 55 bytes long and two when it is
56 or more, so an exact multiple of 64 is followed by a block of padding only; the empty message is one block, 0x80 and then
63 zero bytes. -/
def Obligations.PaddingFillsWholeBlocks : Prop :=
  ∀ (alg : Alg) (r l : Nat),
    r + (pad alg r l).length = 64 * (r / 64 + if r % 64 ≤ 55 then 1 else 2) ∧
    (r % 64 = 0 → (pad alg r l).length = 64) ∧
    pad alg 0 0 = 0x80 :: List.replicate 63 0

/-- 43_digest_commands.md R242: HASH_FINAL (all three algorithms) completes when its ranges are in BUF and the capacity
holds the digest: the padded tail is compressed from STATE, MSGBITS counts the whole message, and BUF holds the digest at
DST_ADDR with every other byte as before. -/
def Obligations.HashFinalCompletes : Prop :=
  ∀ (alg : Alg) (s : State), s.src0Fits → s.dstFits → digestLen alg ≤ s.dstCap.toNat →
    let tail := s.buf.readBytes s.src0Addr.toNat s.src0Len.toNat
    let n := s.src0Len.toNat
    let q := 64 * (n / 64)
    let bits := (s.msgBits.toNat + 8 * n) % 2 ^ 64
    ∃ t, exec (hashFinalOf alg) s = .next t ∧ Completed t .ok (digestLen alg) ∧ CommandFrame s t ∧
      t.resultEq = s.resultEq ∧
      t.chain = compressAll alg (compressAll alg s.chain (tail.take q)) (tail.drop q ++ pad alg (n - q) bits) ∧
      t.msgBits.toNat = bits ∧
      (digest alg t.chain).length = digestLen alg ∧
      BufWritten s t s.dstAddr.toNat (digest alg t.chain)

/-- 43_digest_commands.md R244: HASH (all three algorithms) completes when its ranges are in BUF and the capacity holds the
digest, and writes the message hash of R219, whatever STATE and MSGBITS held. -/
def Obligations.HashCompletes : Prop :=
  ∀ (alg : Alg) (s : State), s.src0Fits → s.dstFits → digestLen alg ≤ s.dstCap.toNat →
    let m := s.buf.readBytes s.src0Addr.toNat s.src0Len.toNat
    let n := s.src0Len.toNat
    let q := 64 * (n / 64)
    ∃ t, exec (hashOf alg) s = .next t ∧ Completed t .ok (digestLen alg) ∧ CommandFrame s t ∧
      t.resultEq = s.resultEq ∧
      t.chain = compressAll alg (compressAll alg (iv alg) (m.take q)) (m.drop q ++ pad alg (n - q) (8 * n)) ∧
      t.msgBits.toNat = 8 * n ∧
      BufWritten s t s.dstAddr.toNat (digest alg t.chain)

/-- 43_digest_commands.md R244, corner case: a HASH that succeeds leaves exactly the state that HASH_INIT and then
HASH_FINAL of the same message leave. -/
def Obligations.HashIsInitThenFinal : Prop :=
  ∀ (alg : Alg) (s t u v : State), exec (hashOf alg) s = .next t → t.errCode = .ok →
    exec (hashInitOf alg) s = .next u → exec (hashFinalOf alg) u = .next v → v = t

/-- 43_digest_commands.md R245: streaming equals one-shot. HASH_FINAL over the tail, on the STATE and MSGBITS that
HASH_INIT and the HASH_BLOCKs over the bytes m left, writes the hash of m followed by the tail, and leaves the STATE and
MSGBITS that HASH of the whole message leaves. -/
def Obligations.StreamingEqualsOneShot : Prop :=
  ∀ (alg : Alg) (r s t : State) (m : Bytes), Stream alg r m → s.chain = r.chain → s.msgBits = r.msgBits →
    exec (hashFinalOf alg) s = .next t → t.errCode = .ok →
    let msg := m ++ s.buf.readBytes s.src0Addr.toNat s.src0Len.toNat
    t.chain = hashChain alg msg ∧ t.msgBits = BitVec.ofNat 64 (8 * msg.length) ∧
      BufWritten s t s.dstAddr.toNat (hashFn alg msg)

/-! ### MAC -/

/-- 44_mac.md R270, R271, R273: HMAC (all three algorithms) completes when its ranges are in BUF and the capacity holds the
MAC; the MAC is written out from R271 here, STATE is left as the outer hash leaves it, its digest is the MAC, and MSGBITS is
768, 672 or 640. -/
def Obligations.HmacCompletes : Prop :=
  ∀ (alg : Alg) (s : State), s.src0Fits → s.src1Fits → s.dstFits → digestLen alg ≤ s.dstCap.toNat →
    let key := s.buf.readBytes s.src0Addr.toNat s.src0Len.toNat
    let msg := s.buf.readBytes s.src1Addr.toNat s.src1Len.toNat
    let key' := if 64 < s.src0Len.toNat then hashFn alg key else key
    let k0 := key' ++ List.replicate (64 - key'.length) 0
    let inner := hashFn alg (k0.map (fun b => b ^^^ 0x36) ++ msg)
    let outer := k0.map (fun b => b ^^^ 0x5C) ++ inner
    ∃ t, exec (hmacOf alg) s = .next t ∧ Completed t .ok (digestLen alg) ∧ CommandFrame s t ∧
      t.resultEq = s.resultEq ∧
      k0.length = 64 ∧ inner.length = digestLen alg ∧
      t.chain = hashChain alg outer ∧
      t.msgBits.toNat = 8 * (64 + digestLen alg) ∧
      digest alg t.chain = hashFn alg outer ∧
      (hashFn alg outer).length = digestLen alg ∧
      BufWritten s t s.dstAddr.toNat (hashFn alg outer)

/-- 44_mac.md R272: the key-length corner cases: K0 is the key with zero bytes up to 64 bytes, and the key's hash with zero
bytes beyond; a longer key and its hash give the same MAC; trailing zero bytes of short keys vanish. -/
def Obligations.HmacKeyLengthCases : Prop :=
  ∀ (alg : Alg) (k m : Bytes),
    (k.length ≤ 64 → hmacK0 alg k = k ++ List.replicate (64 - k.length) 0) ∧
    (64 < k.length → hmacK0 alg k = hashFn alg k ++ List.replicate (64 - digestLen alg) 0) ∧
    (hmacK0 alg k).length = 64 ∧
    (64 < k.length → hmacFn alg k m = hmacFn alg (hashFn alg k) m) ∧
    (∀ z, k.length + z ≤ 64 → hmacFn alg (k ++ List.replicate z 0) m = hmacFn alg k m)

/-- 44_mac.md R280, R281: CT_CMP with both ranges in BUF completes; RESULT.EQ is 1 exactly when the lengths are equal and
so is every byte, and nothing but RESULT and the completion fields changes. -/
def Obligations.CtCmpIsByteEquality : Prop :=
  ∀ s : State, s.src0Fits → s.src1Fits →
    ∃ eq : Bool, exec .ctCmp s = .next { s with
        resultEq := eq, errCode := .ok, outLen := 0, busy := false, done := true } ∧
      (eq = true ↔ s.src0Len = s.src1Len ∧
        ∀ i, i < s.src0Len.toNat → s.buf.read (s.src0Addr.toNat + i) = s.buf.read (s.src1Addr.toNat + i))

/-- 70_reset_and_hazards.md R372, 44_mac.md R283: two pending CT_CMP commands with the same two lengths have the same LAT,
whatever the bytes, the addresses, everything else in State and everything outside it; LAT is at least 1 (00_scope.md R7).
LAT as an opaque function is the model's form of the parameter, log entry 9. -/
def Obligations.CtCmpLatencyIsConstantTime : Prop :=
  (∀ (s : State) (other : Nat), 1 ≤ s.latency other) ∧
  ∀ (s t : State) (other other' : Nat), s.cmd = encode .ctCmp → t.cmd = encode .ctCmp →
    s.src0Len = t.src0Len → s.src1Len = t.src1Len → s.latency other = t.latency other'

/-! ### Codec -/

/-- 41_codec.md R150 to R152: HEX_ENC and HEX_ENC.SP complete when the ranges are in BUF and the capacity holds the text:
digit pairs, high nibble first, lowercase, with a space between pairs for SP = 1 only. -/
def Obligations.HexEncWritesDigitPairs : Prop :=
  ∀ s : State, s.src0Fits → s.dstFits →
    let n := s.src0Len.toNat
    let src := s.src0Addr.toNat
    let dst := s.dstAddr.toNat
    let digit : Nat → Byte := fun v => if v ≤ 9 then BitVec.ofNat 8 (0x30 + v) else BitVec.ofNat 8 (0x61 + (v - 10))
    (2 * n ≤ s.dstCap.toNat →
      ∃ t, exec .hexEnc s = .next t ∧ Completed t .ok (2 * n) ∧ CommandFrame s t ∧
        t.resultEq = s.resultEq ∧ t.chain = s.chain ∧ t.msgBits = s.msgBits ∧
        (∀ i, i < n → t.buf.read (dst + 2 * i) = digit ((s.buf.read (src + i)).toNat / 16) ∧
          t.buf.read (dst + 2 * i + 1) = digit ((s.buf.read (src + i)).toNat % 16)) ∧
        ∀ x, x < dst ∨ dst + 2 * n ≤ x → t.buf.read x = s.buf.read x) ∧
    (3 * n - 1 ≤ s.dstCap.toNat →
      ∃ t, exec .hexEncSp s = .next t ∧ Completed t .ok (3 * n - 1) ∧ CommandFrame s t ∧
        t.resultEq = s.resultEq ∧ t.chain = s.chain ∧ t.msgBits = s.msgBits ∧
        (∀ i, i < n → t.buf.read (dst + 3 * i) = digit ((s.buf.read (src + i)).toNat / 16) ∧
          t.buf.read (dst + 3 * i + 1) = digit ((s.buf.read (src + i)).toNat % 16) ∧
          (i + 1 < n → t.buf.read (dst + 3 * i + 2) = 0x20)) ∧
        ∀ x, x < dst ∨ dst + (3 * n - 1) ≤ x → t.buf.read x = s.buf.read x)

/-- 41_codec.md R155, R156: HEX_DEC of an even number of hex digits, '0' to '9', 'a' to 'f' and 'A' to 'F', in range and with
room, completes and writes one byte for each pair. -/
def Obligations.HexDecReadsDigitPairs : Prop :=
  let digit : Byte → Option Nat := fun c =>
    if 0x30 ≤ c.toNat ∧ c.toNat ≤ 0x39 then some (c.toNat - 0x30)
    else if 0x61 ≤ c.toNat ∧ c.toNat ≤ 0x66 then some (c.toNat - 0x61 + 10)
    else if 0x41 ≤ c.toNat ∧ c.toNat ≤ 0x46 then some (c.toNat - 0x41 + 10)
    else none
  ∀ (s : State) (n : Nat), s.src0Fits → s.dstFits → s.src0Len.toNat = 2 * n → n ≤ s.dstCap.toNat →
    (∀ i, i < 2 * n → ∃ v, digit (s.buf.read (s.src0Addr.toNat + i)) = some v) →
    ∃ t, exec .hexDec s = .next t ∧ Completed t .ok n ∧ CommandFrame s t ∧
      t.resultEq = s.resultEq ∧ t.chain = s.chain ∧ t.msgBits = s.msgBits ∧
      (∀ k, k < n → ∃ h l, digit (s.buf.read (s.src0Addr.toNat + 2 * k)) = some h ∧
        digit (s.buf.read (s.src0Addr.toNat + 2 * k + 1)) = some l ∧
        (t.buf.read (s.dstAddr.toNat + k)).toNat = 16 * h + l) ∧
      ∀ x, x < s.dstAddr.toNat ∨ s.dstAddr.toNat + n ≤ x → t.buf.read x = s.buf.read x

/-- 41_codec.md R155, R156, R172, 40_control.md R126: HEX_DEC of a text in range that has odd length or a byte that is no hex
digit ends in DECODE and changes nothing else, even when the destination is too small. -/
def Obligations.HexDecRejectsMalformedText : Prop :=
  let isDigit : Byte → Prop := fun c =>
    (0x30 ≤ c.toNat ∧ c.toNat ≤ 0x39) ∨ (0x61 ≤ c.toNat ∧ c.toNat ≤ 0x66) ∨ (0x41 ≤ c.toNat ∧ c.toNat ≤ 0x46)
  ∀ s : State, s.src0Fits → s.dstFits →
    (s.src0Len.toNat % 2 = 1 ∨
      ∃ i, i < s.src0Len.toNat ∧ ¬ isDigit (s.buf.read (s.src0Addr.toNat + i))) →
    exec .hexDec s = .next (s.failed .decode 0)

/-- 41_codec.md R170: HEX_ENC of b, then HEX_DEC of its output, gives b, with OUT_LEN = len(b) and OK, wherever the host
points the second command's destination. -/
def Obligations.HexRoundTrip : Prop :=
  ∀ s t s' : State, exec .hexEnc s = .next t → t.errCode = .ok →
    s'.bufSize = s.bufSize → s'.buf = t.buf → s'.src0Addr = s.dstAddr → s'.src0Len = t.outLen →
    s'.dstFits → s.src0Len.toNat ≤ s'.dstCap.toNat →
    ∃ u, exec .hexDec s' = .next u ∧ Completed u .ok s.src0Len.toNat ∧
      BufWritten s' u s'.dstAddr.toNat (s.buf.readBytes s.src0Addr.toNat s.src0Len.toNat)

/-- 41_codec.md R160, R161: B64_ENC completes when the ranges are in BUF and the capacity holds the text. Of each group of
m = 1, 2 or 3 bytes, taken with zero bytes to three, the first m + 1 sextets are written as alphabet characters and the rest
as '='. -/
def Obligations.B64EncWritesQuartets : Prop :=
  let char : Nat → Byte := fun v =>
    if v ≤ 25 then BitVec.ofNat 8 (0x41 + v)
    else if v ≤ 51 then BitVec.ofNat 8 (0x61 + (v - 26))
    else if v ≤ 61 then BitVec.ofNat 8 (0x30 + (v - 52))
    else if v = 62 then 0x2B
    else 0x2F
  ∀ s : State, s.src0Fits → s.dstFits →
    let n := s.src0Len.toNat
    let quartets := (n + 2) / 3
    let byte : Nat → Nat := fun i => if i < n then (s.buf.read (s.src0Addr.toNat + i)).toNat else 0
    4 * quartets ≤ s.dstCap.toNat →
      ∃ t, exec .b64Enc s = .next t ∧ Completed t .ok (4 * quartets) ∧ CommandFrame s t ∧
        t.resultEq = s.resultEq ∧ t.chain = s.chain ∧ t.msgBits = s.msgBits ∧
        (∀ q j, q < quartets → j < 4 →
          let v := byte (3 * q) * 2 ^ 16 + byte (3 * q + 1) * 2 ^ 8 + byte (3 * q + 2)
          t.buf.read (s.dstAddr.toNat + (4 * q + j)) =
            if j ≤ min 3 (n - 3 * q) then char (v / 2 ^ (18 - 6 * j) % 64) else 0x3D) ∧
        ∀ x, x < s.dstAddr.toNat ∨ s.dstAddr.toNat + 4 * quartets ≤ x → t.buf.read x = s.buf.read x

/-- 41_codec.md R171, first law, and R165: B64_DEC of the text of b as R160 and R161 write it, in range and with room,
completes and writes b. -/
def Obligations.B64DecInvertsEncoding : Prop :=
  ∀ (s : State) (b : Bytes), s.src0Fits → s.dstFits →
    Base64Text (s.buf.readBytes s.src0Addr.toNat s.src0Len.toNat) b → b.length ≤ s.dstCap.toNat →
    ∃ t, exec .b64Dec s = .next t ∧ Completed t .ok b.length ∧ CommandFrame s t ∧
      t.resultEq = s.resultEq ∧ t.chain = s.chain ∧ t.msgBits = s.msgBits ∧
      BufWritten s t s.dstAddr.toNat b

/-- 41_codec.md R169, R171, second law, R172: a text in range that is the text of no byte sequence ends in DECODE and
changes nothing else: every byte sequence has exactly one accepted encoding. -/
def Obligations.B64DecAcceptsEncodingsOnly : Prop :=
  ∀ s : State, s.src0Fits → s.dstFits →
    (∀ b, ¬ Base64Text (s.buf.readBytes s.src0Addr.toNat s.src0Len.toNat) b) →
    exec .b64Dec s = .next (s.failed .decode 0)

/-- 41_codec.md R171: B64_ENC and then B64_DEC of its output gives the bytes back; and for every text that B64_DEC accepts,
B64_ENC of the decoded bytes gives the text back. -/
def Obligations.Base64RoundTrips : Prop :=
  (∀ s t s' : State, exec .b64Enc s = .next t → t.errCode = .ok →
    s'.bufSize = s.bufSize → s'.buf = t.buf → s'.src0Addr = s.dstAddr → s'.src0Len = t.outLen →
    s'.dstFits → s.src0Len.toNat ≤ s'.dstCap.toNat →
    ∃ u, exec .b64Dec s' = .next u ∧ Completed u .ok s.src0Len.toNat ∧
      BufWritten s' u s'.dstAddr.toNat (s.buf.readBytes s.src0Addr.toNat s.src0Len.toNat)) ∧
  ∀ s t s' : State, exec .b64Dec s = .next t → t.errCode = .ok →
    s'.bufSize = s.bufSize → s'.buf = t.buf → s'.src0Addr = s.dstAddr → s'.src0Len = t.outLen →
    s'.dstFits → s.src0Len.toNat ≤ s'.dstCap.toNat →
    ∃ u, exec .b64Enc s' = .next u ∧ Completed u .ok s.src0Len.toNat ∧
      BufWritten s' u s'.dstAddr.toNat (s.buf.readBytes s.src0Addr.toNat s.src0Len.toNat)

/-- 40_control.md R130, R127: a codec command in range whose output does not fit ends in DST_OVF, records the length the
output needs, and changes nothing else. -/
def Obligations.CodecOverflowRecordsNeededLength : Prop :=
  let isDigit : Byte → Prop := fun c =>
    (0x30 ≤ c.toNat ∧ c.toNat ≤ 0x39) ∨ (0x61 ≤ c.toNat ∧ c.toNat ≤ 0x66) ∨ (0x41 ≤ c.toNat ∧ c.toNat ≤ 0x46)
  ∀ s : State, s.src0Fits → s.dstFits →
    let n := s.src0Len.toNat
    (s.dstCap.toNat < 2 * n → exec .hexEnc s = .next (s.failed .dstOvf (BitVec.ofNat 32 (2 * n)))) ∧
    (s.dstCap.toNat < 3 * n - 1 → exec .hexEncSp s = .next (s.failed .dstOvf (BitVec.ofNat 32 (3 * n - 1)))) ∧
    (s.dstCap.toNat < 4 * ((n + 2) / 3) →
      exec .b64Enc s = .next (s.failed .dstOvf (BitVec.ofNat 32 (4 * ((n + 2) / 3))))) ∧
    (∀ k, n = 2 * k → (∀ i, i < n → isDigit (s.buf.read (s.src0Addr.toNat + i))) → s.dstCap.toNat < k →
      exec .hexDec s = .next (s.failed .dstOvf (BitVec.ofNat 32 k))) ∧
    (∀ b, Base64Text (s.buf.readBytes s.src0Addr.toNat n) b → s.dstCap.toNat < b.length →
      exec .b64Dec s = .next (s.failed .dstOvf (BitVec.ofNat 32 b.length)))

/-! ### The host bus -/

/-- 20_memory.md R63 to R65: a transaction of a size or alignment the bus does not take returns BUSERR and changes nothing;
every other one returns OKAY. -/
def Obligations.BusErrorsHaveNoEffect : Prop :=
  ∀ (s : State) (x : Txn),
    (x.wellFormed = false → s.transact x = (s, .busErr)) ∧
    (x.wellFormed = true → (s.transact x).2 ≠ .busErr)

/-- 20_memory.md R70: what a transaction of legal size and alignment does while BUSY = 1, every row of the table. -/
def Obligations.BusyTransactionTable : Prop :=
  ∀ (s : State) (a : HostAddr), s.busy = true →
    (∀ r, s.transact (.rd32 (regAddr r)) = (s, .okayRead32 (s.readReg r))) ∧
    (∀ w, s.transact (.wr32 0x0008 w) = (s.ctrlWrite w, .okayWrite)) ∧
    (∀ w, s.transact (.wr32 0x000C w) = (s.statusWrite w, .okayWrite)) ∧
    (a.toNat % 4 = 0 → a.toNat < 0x100 → a ≠ 0x0008 → a ≠ 0x000C →
      ∀ w, s.transact (.wr32 a w) = ({ s with ovr := true }, .okayWrite)) ∧
    (0x8000 ≤ a.toNat → a.toNat < 0x8000 + s.bufSize →
      (∃ d, s.transact (.rd8 a) = ({ s with ovr := true, draws := s.draws + 1 }, .okayRead8 d)) ∧
      (∀ w, s.transact (.wr8 a w) = ({ s with ovr := true }, .okayWrite)) ∧
      (a.toNat % 4 = 0 →
        (∃ d, s.transact (.rd32 a) = ({ s with ovr := true, draws := s.draws + 1 }, .okayRead32 d)) ∧
        ∀ w, s.transact (.wr32 a w) = ({ s with ovr := true }, .okayWrite))) ∧
    ((0x100 ≤ a.toNat ∧ a.toNat < 0x8000) ∨ 0x8000 + s.bufSize ≤ a.toNat →
      s.transact (.rd8 a) = (s, .okayRead8 0) ∧ (∀ w, s.transact (.wr8 a w) = (s, .okayWrite)) ∧
      (a.toNat % 4 = 0 →
        s.transact (.rd32 a) = (s, .okayRead32 0) ∧ ∀ w, s.transact (.wr32 a w) = (s, .okayWrite)))

/-- 20_memory.md R67, 10_state.md R31: reserved aperture addresses and reserved register offsets read 0 and ignore writes,
but for OVR at a reserved register offset while BUSY = 1. -/
def Obligations.ReservedAddressesAreInert : Prop :=
  ∀ (s : State) (a : HostAddr),
    ((0x100 ≤ a.toNat ∧ a.toNat < 0x8000) ∨ 0x8000 + s.bufSize ≤ a.toNat →
      s.transact (.rd8 a) = (s, .okayRead8 0) ∧ (∀ w, s.transact (.wr8 a w) = (s, .okayWrite)) ∧
      (a.toNat % 4 = 0 →
        s.transact (.rd32 a) = (s, .okayRead32 0) ∧ ∀ w, s.transact (.wr32 a w) = (s, .okayWrite))) ∧
    (a.toNat % 4 = 0 → a.toNat = 0x034 ∨ (0x060 ≤ a.toNat ∧ a.toNat ≤ 0x0FC) →
      s.transact (.rd32 a) = (s, .okayRead32 0) ∧
      ∀ w, s.transact (.wr32 a w) = ({ s with ovr := s.ovr || s.busy }, .okayWrite))

/-- 20_memory.md R70, last paragraph, 10_state.md R40: while BUSY = 1 a host step that is no soft reset leaves every
register a command reads, and BUF, as they were, and the command pending. -/
def Obligations.CommandInputsStableWhileBusy : Prop :=
  ∀ s : State, s.busy = true →
    (∀ w rest, s.host = .txn (.wr32 0x0008 w) :: rest → w.getLsbD 1 = false) →
    let t := hostStep s
    t.busy = true ∧ t.cmd = s.cmd ∧ SameInputs s t ∧ t.outLen = s.outLen ∧ t.errCode = s.errCode ∧
      t.resultEq = s.resultEq

/-- 40_control.md R121: the accept: a CMD write of any word while BUSY = 0 stores it, sets BUSY and clears DONE, and changes
nothing else; while BUSY = 1 it is dropped and sets OVR. -/
def Obligations.CmdWriteAccepts : Prop :=
  ∀ (s : State) (w : Word),
    (s.busy = false →
      s.transact (.wr32 0x0010 w) = ({ s with cmd := w, busy := true, done := false }, .okayWrite)) ∧
    (s.busy = true → s.transact (.wr32 0x0010 w) = ({ s with ovr := true }, .okayWrite))

/-- 20_memory.md R66: while BUSY = 0, at 0x8000 + i with i a multiple of 4, a word read returns BUF[i .. i+4) in
little-endian lanes, a word write stores its bytes from the low end up, and byte reads of the four addresses give them back
in address order; a byte access moves exactly BUF[i]. No other byte of BUF changes. -/
def Obligations.BufWindowIsLittleEndian : Prop :=
  ∀ (s : State) (i : Nat) (a : HostAddr), s.busy = false → s.sizeLegal → i < s.bufSize → a.toNat = 0x8000 + i →
    s.transact (.rd8 a) = (s, .okayRead8 (s.buf.read i)) ∧
    (∀ b, ∃ t, s.transact (.wr8 a b) = (t, .okayWrite) ∧ t = { s with buf := t.buf } ∧ t.buf.read i = b ∧
      ∀ x, x ≠ i → t.buf.read x = s.buf.read x) ∧
    (i % 4 = 0 →
      (∃ r, s.transact (.rd32 a) = (s, .okayRead32 r) ∧
        ∀ k, k < 4 → r.extractLsb' (8 * k) 8 = s.buf.read (i + k)) ∧
      ∀ w, ∃ t, s.transact (.wr32 a w) = (t, .okayWrite) ∧ t = { s with buf := t.buf } ∧
        (∀ k : Nat, k < 4 → t.buf.read (i + k) = w.extractLsb' (8 * k) 8 ∧
          t.transact (.rd8 (a + BitVec.ofNat 16 k)) = (t, .okayRead8 (w.extractLsb' (8 * k) 8))) ∧
        t.transact (.rd32 a) = (t, .okayRead32 w) ∧
        ∀ x, x < i ∨ i + 4 ≤ x → t.buf.read x = s.buf.read x)

/-- 10_state.md R21 with R26, R29 and R30, offset by offset: while BUSY = 0 a write of a word to an operand register, to a half
of MSGBITS or to a word of STATE puts that word there and changes nothing else. -/
def Obligations.RegisterMapWrites : Prop :=
  ∀ (s : State) (w : Word), s.busy = false →
    s.transact (.wr32 0x0014 w) = ({ s with src0Addr := w }, .okayWrite) ∧
    s.transact (.wr32 0x0018 w) = ({ s with src0Len := w }, .okayWrite) ∧
    s.transact (.wr32 0x001C w) = ({ s with src1Addr := w }, .okayWrite) ∧
    s.transact (.wr32 0x0020 w) = ({ s with src1Len := w }, .okayWrite) ∧
    s.transact (.wr32 0x0024 w) = ({ s with dstAddr := w }, .okayWrite) ∧
    s.transact (.wr32 0x0028 w) = ({ s with dstCap := w }, .okayWrite) ∧
    s.transact (.wr32 0x0038 w) =
      ({ s with msgBits := BitVec.ofNat 64 (s.msgBits.toNat / 2 ^ 32 * 2 ^ 32 + w.toNat) }, .okayWrite) ∧
    s.transact (.wr32 0x003C w) =
      ({ s with msgBits := BitVec.ofNat 64 (w.toNat * 2 ^ 32 + s.msgBits.toNat % 2 ^ 32) }, .okayWrite) ∧
    s.transact (.wr32 0x0040 w) = ({ s with chain := { s.chain with s0 := w } }, .okayWrite) ∧
    s.transact (.wr32 0x0044 w) = ({ s with chain := { s.chain with s1 := w } }, .okayWrite) ∧
    s.transact (.wr32 0x0048 w) = ({ s with chain := { s.chain with s2 := w } }, .okayWrite) ∧
    s.transact (.wr32 0x004C w) = ({ s with chain := { s.chain with s3 := w } }, .okayWrite) ∧
    s.transact (.wr32 0x0050 w) = ({ s with chain := { s.chain with s4 := w } }, .okayWrite) ∧
    s.transact (.wr32 0x0054 w) = ({ s with chain := { s.chain with s5 := w } }, .okayWrite) ∧
    s.transact (.wr32 0x0058 w) = ({ s with chain := { s.chain with s6 := w } }, .okayWrite) ∧
    s.transact (.wr32 0x005C w) = ({ s with chain := { s.chain with s7 := w } }, .okayWrite)

/-- 10_state.md R21, offset by offset, with R22 to R30 and R35, and 20_memory.md R68: what a read of each register returns, in
every state, BUSY or not, without a side effect. -/
def Obligations.RegisterMapReads : Prop :=
  ∀ s : State,
    s.transact (.rd32 0x0000) = (s, .okayRead32 0x4E484231) ∧
    s.transact (.rd32 0x0004) = (s, .okayRead32 (BitVec.ofNat 32 s.bufSize)) ∧
    s.transact (.rd32 0x0008) = (s, .okayRead32 (if s.irqEn then 1 else 0)) ∧
    s.transact (.rd32 0x000C) = (s, .okayRead32 s.statusWord) ∧
    s.transact (.rd32 0x0010) = (s, .okayRead32 s.cmd) ∧
    s.transact (.rd32 0x0014) = (s, .okayRead32 s.src0Addr) ∧
    s.transact (.rd32 0x0018) = (s, .okayRead32 s.src0Len) ∧
    s.transact (.rd32 0x001C) = (s, .okayRead32 s.src1Addr) ∧
    s.transact (.rd32 0x0020) = (s, .okayRead32 s.src1Len) ∧
    s.transact (.rd32 0x0024) = (s, .okayRead32 s.dstAddr) ∧
    s.transact (.rd32 0x0028) = (s, .okayRead32 s.dstCap) ∧
    s.transact (.rd32 0x002C) = (s, .okayRead32 s.outLen) ∧
    s.transact (.rd32 0x0030) = (s, .okayRead32 (if s.resultEq then 1 else 0)) ∧
    s.transact (.rd32 0x0038) = (s, .okayRead32 (BitVec.ofNat 32 s.msgBits.toNat)) ∧
    s.transact (.rd32 0x003C) = (s, .okayRead32 (BitVec.ofNat 32 (s.msgBits.toNat / 2 ^ 32))) ∧
    s.transact (.rd32 0x0040) = (s, .okayRead32 s.chain.s0) ∧
    s.transact (.rd32 0x0044) = (s, .okayRead32 s.chain.s1) ∧
    s.transact (.rd32 0x0048) = (s, .okayRead32 s.chain.s2) ∧
    s.transact (.rd32 0x004C) = (s, .okayRead32 s.chain.s3) ∧
    s.transact (.rd32 0x0050) = (s, .okayRead32 s.chain.s4) ∧
    s.transact (.rd32 0x0054) = (s, .okayRead32 s.chain.s5) ∧
    s.transact (.rd32 0x0058) = (s, .okayRead32 s.chain.s6) ∧
    s.transact (.rd32 0x005C) = (s, .okayRead32 s.chain.s7)

/-- 10_state.md R26, R29, R30: while BUSY = 0, every operand register, both halves of MSGBITS and every word of STATE store
all 32 bits and read back unchanged. -/
def Obligations.ReadWriteRegistersReadBack : Prop :=
  ∀ (s : State) (r : Reg) (w : Word), s.busy = false →
    r ∈ [Reg.src0Addr, .src0Len, .src1Addr, .src1Len, .dstAddr, .dstCap, .msgBitsLo, .msgBitsHi] ∨ (∃ k, r = .state k) →
    ∃ t, s.transact (.wr32 (regAddr r) w) = (t, .okayWrite) ∧
      t.transact (.rd32 (regAddr r)) = (t, .okayRead32 w) ∧
      (∀ r', r' ≠ r → t.transact (.rd32 (regAddr r')) = (t, .okayRead32 (s.readReg r'))) ∧
      BufSame s t ∧ t.busy = false

/-- 10_state.md R22, R23: ID always reads 0x4E484231 and BUFSZ always reads BUF_SIZE; while BUSY = 0 a write to either, and
to OUT_LEN and RESULT (R27, R28), is ignored. -/
def Obligations.ReadOnlyRegistersIgnoreWrites : Prop :=
  ∀ s : State,
    s.transact (.rd32 0x0000) = (s, .okayRead32 0x4E484231) ∧
    s.transact (.rd32 0x0004) = (s, .okayRead32 (BitVec.ofNat 32 s.bufSize)) ∧
    (s.busy = false → ∀ (w : Word), ∀ a ∈ ([0x0000, 0x0004, 0x002C, 0x0030] : List HostAddr),
      s.transact (.wr32 a w) = (s, .okayWrite))

/-- 10_state.md R25, R32, 60_exceptions.md R300, R305: the STATUS word, bit by bit; ERRCODE is one of 0 to 5 in every
state. -/
def Obligations.StatusWordLayout : Prop :=
  ∀ s : State,
    s.statusWord.toNat = s.busy.toNat + 2 * s.done.toNat + 4 * (if s.errCode = .ok then 0 else 1) + 8 * s.ovr.toNat +
      256 * (match s.errCode with
        | .ok => 0
        | .illegal => 1
        | .range => 2
        | .length => 3
        | .decode => 4
        | .dstOvf => 5) ∧
    s.statusWord.toNat / 256 ≤ 5

/-- 10_state.md R25, 60_exceptions.md R307: a STATUS write acknowledges: bit 1 clears DONE, bit 3 clears OVR, whatever BUSY
is, and nothing else changes. -/
def Obligations.StatusWriteAcknowledges : Prop :=
  ∀ (s : State) (w : Word),
    s.transact (.wr32 0x000C w) =
      ({ s with done := if w.getLsbD 1 then false else s.done, ovr := if w.getLsbD 3 then false else s.ovr },
        .okayWrite)

/-- 10_state.md R24: whatever BUSY is, a CTRL write with bit 1 = 0 puts bit 0 into IRQ_EN and changes nothing else, and one
with bit 1 = 1 is the soft reset, which leaves IRQ_EN 0 whatever bit 0 was; CTRL reads IRQ_EN in bit 0 and 0 elsewhere. -/
def Obligations.CtrlWriteSetsIrqEnable : Prop :=
  State.reset.irqEn = false ∧
  ∀ (s : State) (w : Word),
    s.transact (.rd32 0x0008) = (s, .okayRead32 (if s.irqEn then 1 else 0)) ∧
    (w.getLsbD 1 = false → s.transact (.wr32 0x0008 w) = ({ s with irqEn := w.getLsbD 0 }, .okayWrite)) ∧
    (w.getLsbD 1 = true → ∃ t, s.transact (.wr32 0x0008 w) = (t, .okayWrite) ∧ t.irqEn = false ∧ t.busy = false)

/-- 60_exceptions.md R310: irq is DONE and IRQ_EN at all times; every completion, a success or an error, leaves it equal to
IRQ_EN; an acknowledge, an accept, a soft reset and the power-on reset leave it low. -/
def Obligations.IrqFollowsDone : Prop :=
  State.reset.irq = false ∧
  ∀ s : State,
    s.irq = (s.done && s.irqEn) ∧
    (∀ t, engineStep s = .next t → t.irq = s.irqEn) ∧
    (∃ t, s.transact (.wr32 0x000C 2) = (t, .okayWrite) ∧ t.irq = false) ∧
    (s.busy = false → ∀ w, ∃ t, s.transact (.wr32 0x0010 w) = (t, .okayWrite) ∧ t.irq = false) ∧
    (∀ w : Word, w.getLsbD 1 = true → ∃ t, s.transact (.wr32 0x0008 w) = (t, .okayWrite) ∧ t.irq = false)

/-- 60_exceptions.md R311: enable changes act at once: setting IRQ_EN while DONE = 1 raises irq, clearing it lowers irq and
keeps DONE, and a completion while IRQ_EN = 0 leaves DONE = 1, for which a later enable raises irq. -/
def Obligations.IrqEnableActsAtOnce : Prop :=
  ∀ (s : State) (w : Word), w.getLsbD 1 = false →
    (s.done = true → w.getLsbD 0 = true →
      ∃ t, s.transact (.wr32 0x0008 w) = (t, .okayWrite) ∧ t.irq = true ∧ t.done = true) ∧
    (w.getLsbD 0 = false → ∃ t, s.transact (.wr32 0x0008 w) = (t, .okayWrite) ∧ t.irq = false ∧ t.done = s.done) ∧
    (s.irqEn = false → w.getLsbD 0 = true → ∀ t, engineStep s = .next t → t.done = true ∧ t.irq = false ∧
      ∃ u, t.transact (.wr32 0x0008 w) = (u, .okayWrite) ∧ u.irq = true)

/-! ### Reset -/

/-- 10_state.md R50: after power-on reset and after a soft reset every register reads as the table says, no command is
pending and irq is 0. After power-on every BUF byte holds the unspecified BUF_POWERON; a soft reset of an idle engine leaves
BUF unchanged. -/
def Obligations.ResetTable : Prop :=
  let inResetState (s : State) : Prop :=
    s.readReg .id = 0x4E484231 ∧ s.readReg .bufsz = BitVec.ofNat 32 s.bufSize ∧ s.busy = false ∧ s.irq = false ∧
      ∀ r, r ≠ .id → r ≠ .bufsz → s.readReg r = 0
  (inResetState .reset ∧ ∀ a, State.reset.buf.read a = Config.bufPowerOn a) ∧
  ∀ (s : State) (w : Word), w.getLsbD 1 = true →
    ∃ t, s.transact (.wr32 0x0008 w) = (t, .okayWrite) ∧ inResetState t ∧ t.bufSize = s.bufSize ∧
      (s.busy = false → t.buf = s.buf)

/-- 70_reset_and_hazards.md R343, R344: a soft reset of a busy engine discards the pending command: no completion, none of
its STATE, MSGBITS or RESULT writes. If it writes a destination (40_control.md R123), exactly the bytes of
[DST_ADDR, DST_ADDR + DST_CAP) that lie inside BUF become unspecified, each a free value (the opaque function of the draws
counter is the model's form of the draw, log entry 8); every other byte is unchanged, and a command that writes no destination
leaves BUF wholly unchanged. That a pending illegal word too leaves BUF unchanged is not R344's words: it is the model's
deduction from R123, whose table has no row for such a word, and R125, under which it would have ended in ILLEGAL before any
write (log entry 8, DEDUCED, unsafe). -/
def Obligations.AbortDrawsTheDestination : Prop :=
  ∀ (s : State) (w : Word), s.busy = true → w.getLsbD 1 = true →
    ∃ t, s.transact (.wr32 0x0008 w) = (t, .okayWrite) ∧ t.busy = false ∧ t.done = false ∧ t.irq = false ∧
      t.errCode = .ok ∧ t.chain = Chain.zero ∧ t.msgBits = 0 ∧ t.resultEq = false ∧
      ((∃ i, decode s.cmd = .instr i ∧ writesDst i = true) →
        ∀ a, t.buf.read a =
          if s.dstAddr.toNat ≤ a ∧ a < s.dstAddr.toNat + s.dstCap.toNat ∧ a < s.bufSize
          then Config.abortByte s.draws a else s.buf.read a) ∧
      ((∀ i, decode s.cmd = .instr i → writesDst i = false) → t.buf = s.buf)
end

