-- ==== Sys2Proof/Laws/State.lean ====
section
/-! SUPPORT. One lemma per field per update of State, true by rfl. -/

namespace Sys2Proof.Machine

open Sys2Proof

@[simp] theorem State.accept_bufSize (s : State) (w : Word) : (s.accept w).bufSize = s.bufSize := rfl
@[simp] theorem State.accept_irqEn (s : State) (w : Word) : (s.accept w).irqEn = s.irqEn := rfl
@[simp] theorem State.accept_busy (s : State) (w : Word) : (s.accept w).busy = true := rfl
@[simp] theorem State.accept_done (s : State) (w : Word) : (s.accept w).done = false := rfl
@[simp] theorem State.accept_ovr (s : State) (w : Word) : (s.accept w).ovr = s.ovr := rfl
@[simp] theorem State.accept_errCode (s : State) (w : Word) : (s.accept w).errCode = s.errCode := rfl
@[simp] theorem State.accept_cmd (s : State) (w : Word) : (s.accept w).cmd = w := rfl
@[simp] theorem State.accept_src0Addr (s : State) (w : Word) : (s.accept w).src0Addr = s.src0Addr := rfl
@[simp] theorem State.accept_src0Len (s : State) (w : Word) : (s.accept w).src0Len = s.src0Len := rfl
@[simp] theorem State.accept_src1Addr (s : State) (w : Word) : (s.accept w).src1Addr = s.src1Addr := rfl
@[simp] theorem State.accept_src1Len (s : State) (w : Word) : (s.accept w).src1Len = s.src1Len := rfl
@[simp] theorem State.accept_dstAddr (s : State) (w : Word) : (s.accept w).dstAddr = s.dstAddr := rfl
@[simp] theorem State.accept_dstCap (s : State) (w : Word) : (s.accept w).dstCap = s.dstCap := rfl
@[simp] theorem State.accept_outLen (s : State) (w : Word) : (s.accept w).outLen = s.outLen := rfl
@[simp] theorem State.accept_resultEq (s : State) (w : Word) : (s.accept w).resultEq = s.resultEq := rfl
@[simp] theorem State.accept_msgBits (s : State) (w : Word) : (s.accept w).msgBits = s.msgBits := rfl
@[simp] theorem State.accept_chain (s : State) (w : Word) : (s.accept w).chain = s.chain := rfl
@[simp] theorem State.accept_buf (s : State) (w : Word) : (s.accept w).buf = s.buf := rfl
@[simp] theorem State.accept_draws (s : State) (w : Word) : (s.accept w).draws = s.draws := rfl
@[simp] theorem State.accept_host (s : State) (w : Word) : (s.accept w).host = s.host := rfl
@[simp] theorem State.accept_turns (s : State) (w : Word) : (s.accept w).turns = s.turns := rfl
@[simp] theorem State.accept_replies (s : State) (w : Word) : (s.accept w).replies = s.replies := rfl

@[simp] theorem State.acceptNow_bufSize (s : State) (w : Word) : (s.acceptNow w).bufSize = s.bufSize := rfl
@[simp] theorem State.acceptNow_irqEn (s : State) (w : Word) : (s.acceptNow w).irqEn = s.irqEn := rfl
@[simp] theorem State.acceptNow_busy (s : State) (w : Word) : (s.acceptNow w).busy = true := rfl
@[simp] theorem State.acceptNow_done (s : State) (w : Word) : (s.acceptNow w).done = false := rfl
@[simp] theorem State.acceptNow_ovr (s : State) (w : Word) : (s.acceptNow w).ovr = s.ovr := rfl
@[simp] theorem State.acceptNow_errCode (s : State) (w : Word) : (s.acceptNow w).errCode = s.errCode := rfl
@[simp] theorem State.acceptNow_cmd (s : State) (w : Word) : (s.acceptNow w).cmd = w := rfl
@[simp] theorem State.acceptNow_src0Addr (s : State) (w : Word) : (s.acceptNow w).src0Addr = s.src0Addr := rfl
@[simp] theorem State.acceptNow_src0Len (s : State) (w : Word) : (s.acceptNow w).src0Len = s.src0Len := rfl
@[simp] theorem State.acceptNow_src1Addr (s : State) (w : Word) : (s.acceptNow w).src1Addr = s.src1Addr := rfl
@[simp] theorem State.acceptNow_src1Len (s : State) (w : Word) : (s.acceptNow w).src1Len = s.src1Len := rfl
@[simp] theorem State.acceptNow_dstAddr (s : State) (w : Word) : (s.acceptNow w).dstAddr = s.dstAddr := rfl
@[simp] theorem State.acceptNow_dstCap (s : State) (w : Word) : (s.acceptNow w).dstCap = s.dstCap := rfl
@[simp] theorem State.acceptNow_outLen (s : State) (w : Word) : (s.acceptNow w).outLen = s.outLen := rfl
@[simp] theorem State.acceptNow_resultEq (s : State) (w : Word) : (s.acceptNow w).resultEq = s.resultEq := rfl
@[simp] theorem State.acceptNow_msgBits (s : State) (w : Word) : (s.acceptNow w).msgBits = s.msgBits := rfl
@[simp] theorem State.acceptNow_chain (s : State) (w : Word) : (s.acceptNow w).chain = s.chain := rfl
@[simp] theorem State.acceptNow_buf (s : State) (w : Word) : (s.acceptNow w).buf = s.buf := rfl
@[simp] theorem State.acceptNow_draws (s : State) (w : Word) : (s.acceptNow w).draws = s.draws := rfl
@[simp] theorem State.acceptNow_host (s : State) (w : Word) : (s.acceptNow w).host = s.host := rfl
@[simp] theorem State.acceptNow_turns (s : State) (w : Word) : (s.acceptNow w).turns = [] := rfl
@[simp] theorem State.acceptNow_replies (s : State) (w : Word) : (s.acceptNow w).replies = s.replies := rfl

@[simp] theorem State.complete_bufSize (s : State) (n : Nat) : (s.complete n).bufSize = s.bufSize := rfl
@[simp] theorem State.complete_irqEn (s : State) (n : Nat) : (s.complete n).irqEn = s.irqEn := rfl
@[simp] theorem State.complete_busy (s : State) (n : Nat) : (s.complete n).busy = false := rfl
@[simp] theorem State.complete_done (s : State) (n : Nat) : (s.complete n).done = true := rfl
@[simp] theorem State.complete_ovr (s : State) (n : Nat) : (s.complete n).ovr = s.ovr := rfl
@[simp] theorem State.complete_errCode (s : State) (n : Nat) : (s.complete n).errCode = .ok := rfl
@[simp] theorem State.complete_cmd (s : State) (n : Nat) : (s.complete n).cmd = s.cmd := rfl
@[simp] theorem State.complete_src0Addr (s : State) (n : Nat) : (s.complete n).src0Addr = s.src0Addr := rfl
@[simp] theorem State.complete_src0Len (s : State) (n : Nat) : (s.complete n).src0Len = s.src0Len := rfl
@[simp] theorem State.complete_src1Addr (s : State) (n : Nat) : (s.complete n).src1Addr = s.src1Addr := rfl
@[simp] theorem State.complete_src1Len (s : State) (n : Nat) : (s.complete n).src1Len = s.src1Len := rfl
@[simp] theorem State.complete_dstAddr (s : State) (n : Nat) : (s.complete n).dstAddr = s.dstAddr := rfl
@[simp] theorem State.complete_dstCap (s : State) (n : Nat) : (s.complete n).dstCap = s.dstCap := rfl
@[simp] theorem State.complete_outLen (s : State) (n : Nat) : (s.complete n).outLen = BitVec.ofNat 32 n := rfl
@[simp] theorem State.complete_resultEq (s : State) (n : Nat) : (s.complete n).resultEq = s.resultEq := rfl
@[simp] theorem State.complete_msgBits (s : State) (n : Nat) : (s.complete n).msgBits = s.msgBits := rfl
@[simp] theorem State.complete_chain (s : State) (n : Nat) : (s.complete n).chain = s.chain := rfl
@[simp] theorem State.complete_buf (s : State) (n : Nat) : (s.complete n).buf = s.buf := rfl
@[simp] theorem State.complete_draws (s : State) (n : Nat) : (s.complete n).draws = s.draws := rfl
@[simp] theorem State.complete_host (s : State) (n : Nat) : (s.complete n).host = s.host := rfl
@[simp] theorem State.complete_turns (s : State) (n : Nat) : (s.complete n).turns = s.turns := rfl
@[simp] theorem State.complete_replies (s : State) (n : Nat) : (s.complete n).replies = s.replies := rfl

@[simp] theorem State.raiseError_bufSize (s : State) (c : ErrCode) (n : Nat) : (s.raiseError c n).bufSize = s.bufSize := rfl
@[simp] theorem State.raiseError_irqEn (s : State) (c : ErrCode) (n : Nat) : (s.raiseError c n).irqEn = s.irqEn := rfl
@[simp] theorem State.raiseError_busy (s : State) (c : ErrCode) (n : Nat) : (s.raiseError c n).busy = false := rfl
@[simp] theorem State.raiseError_done (s : State) (c : ErrCode) (n : Nat) : (s.raiseError c n).done = true := rfl
@[simp] theorem State.raiseError_ovr (s : State) (c : ErrCode) (n : Nat) : (s.raiseError c n).ovr = s.ovr := rfl
@[simp] theorem State.raiseError_errCode (s : State) (c : ErrCode) (n : Nat) : (s.raiseError c n).errCode = c := rfl
@[simp] theorem State.raiseError_cmd (s : State) (c : ErrCode) (n : Nat) : (s.raiseError c n).cmd = s.cmd := rfl
@[simp] theorem State.raiseError_src0Addr (s : State) (c : ErrCode) (n : Nat) : (s.raiseError c n).src0Addr = s.src0Addr := rfl
@[simp] theorem State.raiseError_src0Len (s : State) (c : ErrCode) (n : Nat) : (s.raiseError c n).src0Len = s.src0Len := rfl
@[simp] theorem State.raiseError_src1Addr (s : State) (c : ErrCode) (n : Nat) : (s.raiseError c n).src1Addr = s.src1Addr := rfl
@[simp] theorem State.raiseError_src1Len (s : State) (c : ErrCode) (n : Nat) : (s.raiseError c n).src1Len = s.src1Len := rfl
@[simp] theorem State.raiseError_dstAddr (s : State) (c : ErrCode) (n : Nat) : (s.raiseError c n).dstAddr = s.dstAddr := rfl
@[simp] theorem State.raiseError_dstCap (s : State) (c : ErrCode) (n : Nat) : (s.raiseError c n).dstCap = s.dstCap := rfl
@[simp] theorem State.raiseError_outLen (s : State) (c : ErrCode) (n : Nat) : (s.raiseError c n).outLen = recordedLength c n := rfl
@[simp] theorem State.raiseError_resultEq (s : State) (c : ErrCode) (n : Nat) : (s.raiseError c n).resultEq = s.resultEq := rfl
@[simp] theorem State.raiseError_msgBits (s : State) (c : ErrCode) (n : Nat) : (s.raiseError c n).msgBits = s.msgBits := rfl
@[simp] theorem State.raiseError_chain (s : State) (c : ErrCode) (n : Nat) : (s.raiseError c n).chain = s.chain := rfl
@[simp] theorem State.raiseError_buf (s : State) (c : ErrCode) (n : Nat) : (s.raiseError c n).buf = s.buf := rfl
@[simp] theorem State.raiseError_draws (s : State) (c : ErrCode) (n : Nat) : (s.raiseError c n).draws = s.draws := rfl
@[simp] theorem State.raiseError_host (s : State) (c : ErrCode) (n : Nat) : (s.raiseError c n).host = s.host := rfl
@[simp] theorem State.raiseError_turns (s : State) (c : ErrCode) (n : Nat) : (s.raiseError c n).turns = s.turns := rfl
@[simp] theorem State.raiseError_replies (s : State) (c : ErrCode) (n : Nat) : (s.raiseError c n).replies = s.replies := rfl

@[simp] theorem State.stage_bufSize (s : State) (c : Chain) (b : BitVec 64) : (s.stage c b).bufSize = s.bufSize := rfl
@[simp] theorem State.stage_irqEn (s : State) (c : Chain) (b : BitVec 64) : (s.stage c b).irqEn = s.irqEn := rfl
@[simp] theorem State.stage_busy (s : State) (c : Chain) (b : BitVec 64) : (s.stage c b).busy = s.busy := rfl
@[simp] theorem State.stage_done (s : State) (c : Chain) (b : BitVec 64) : (s.stage c b).done = s.done := rfl
@[simp] theorem State.stage_ovr (s : State) (c : Chain) (b : BitVec 64) : (s.stage c b).ovr = s.ovr := rfl
@[simp] theorem State.stage_errCode (s : State) (c : Chain) (b : BitVec 64) : (s.stage c b).errCode = s.errCode := rfl
@[simp] theorem State.stage_cmd (s : State) (c : Chain) (b : BitVec 64) : (s.stage c b).cmd = s.cmd := rfl
@[simp] theorem State.stage_src0Addr (s : State) (c : Chain) (b : BitVec 64) : (s.stage c b).src0Addr = s.src0Addr := rfl
@[simp] theorem State.stage_src0Len (s : State) (c : Chain) (b : BitVec 64) : (s.stage c b).src0Len = s.src0Len := rfl
@[simp] theorem State.stage_src1Addr (s : State) (c : Chain) (b : BitVec 64) : (s.stage c b).src1Addr = s.src1Addr := rfl
@[simp] theorem State.stage_src1Len (s : State) (c : Chain) (b : BitVec 64) : (s.stage c b).src1Len = s.src1Len := rfl
@[simp] theorem State.stage_dstAddr (s : State) (c : Chain) (b : BitVec 64) : (s.stage c b).dstAddr = s.dstAddr := rfl
@[simp] theorem State.stage_dstCap (s : State) (c : Chain) (b : BitVec 64) : (s.stage c b).dstCap = s.dstCap := rfl
@[simp] theorem State.stage_outLen (s : State) (c : Chain) (b : BitVec 64) : (s.stage c b).outLen = s.outLen := rfl
@[simp] theorem State.stage_resultEq (s : State) (c : Chain) (b : BitVec 64) : (s.stage c b).resultEq = s.resultEq := rfl
@[simp] theorem State.stage_msgBits (s : State) (c : Chain) (b : BitVec 64) : (s.stage c b).msgBits = b := rfl
@[simp] theorem State.stage_chain (s : State) (c : Chain) (b : BitVec 64) : (s.stage c b).chain = c := rfl
@[simp] theorem State.stage_buf (s : State) (c : Chain) (b : BitVec 64) : (s.stage c b).buf = s.buf := rfl
@[simp] theorem State.stage_draws (s : State) (c : Chain) (b : BitVec 64) : (s.stage c b).draws = s.draws := rfl
@[simp] theorem State.stage_host (s : State) (c : Chain) (b : BitVec 64) : (s.stage c b).host = s.host := rfl
@[simp] theorem State.stage_turns (s : State) (c : Chain) (b : BitVec 64) : (s.stage c b).turns = s.turns := rfl
@[simp] theorem State.stage_replies (s : State) (c : Chain) (b : BitVec 64) : (s.stage c b).replies = s.replies := rfl

@[simp] theorem State.statusWrite_bufSize (s : State) (w : Word) : (s.statusWrite w).bufSize = s.bufSize := rfl
@[simp] theorem State.statusWrite_irqEn (s : State) (w : Word) : (s.statusWrite w).irqEn = s.irqEn := rfl
@[simp] theorem State.statusWrite_busy (s : State) (w : Word) : (s.statusWrite w).busy = s.busy := rfl
@[simp] theorem State.statusWrite_done (s : State) (w : Word) : (s.statusWrite w).done = (s.done && !w.getLsbD 1) := rfl
@[simp] theorem State.statusWrite_ovr (s : State) (w : Word) : (s.statusWrite w).ovr = (s.ovr && !w.getLsbD 3) := rfl
@[simp] theorem State.statusWrite_errCode (s : State) (w : Word) : (s.statusWrite w).errCode = s.errCode := rfl
@[simp] theorem State.statusWrite_cmd (s : State) (w : Word) : (s.statusWrite w).cmd = s.cmd := rfl
@[simp] theorem State.statusWrite_src0Addr (s : State) (w : Word) : (s.statusWrite w).src0Addr = s.src0Addr := rfl
@[simp] theorem State.statusWrite_src0Len (s : State) (w : Word) : (s.statusWrite w).src0Len = s.src0Len := rfl
@[simp] theorem State.statusWrite_src1Addr (s : State) (w : Word) : (s.statusWrite w).src1Addr = s.src1Addr := rfl
@[simp] theorem State.statusWrite_src1Len (s : State) (w : Word) : (s.statusWrite w).src1Len = s.src1Len := rfl
@[simp] theorem State.statusWrite_dstAddr (s : State) (w : Word) : (s.statusWrite w).dstAddr = s.dstAddr := rfl
@[simp] theorem State.statusWrite_dstCap (s : State) (w : Word) : (s.statusWrite w).dstCap = s.dstCap := rfl
@[simp] theorem State.statusWrite_outLen (s : State) (w : Word) : (s.statusWrite w).outLen = s.outLen := rfl
@[simp] theorem State.statusWrite_resultEq (s : State) (w : Word) : (s.statusWrite w).resultEq = s.resultEq := rfl
@[simp] theorem State.statusWrite_msgBits (s : State) (w : Word) : (s.statusWrite w).msgBits = s.msgBits := rfl
@[simp] theorem State.statusWrite_chain (s : State) (w : Word) : (s.statusWrite w).chain = s.chain := rfl
@[simp] theorem State.statusWrite_buf (s : State) (w : Word) : (s.statusWrite w).buf = s.buf := rfl
@[simp] theorem State.statusWrite_draws (s : State) (w : Word) : (s.statusWrite w).draws = s.draws := rfl
@[simp] theorem State.statusWrite_host (s : State) (w : Word) : (s.statusWrite w).host = s.host := rfl
@[simp] theorem State.statusWrite_turns (s : State) (w : Word) : (s.statusWrite w).turns = s.turns := rfl
@[simp] theorem State.statusWrite_replies (s : State) (w : Word) : (s.statusWrite w).replies = s.replies := rfl

@[simp] theorem State.setOvr_bufSize (s : State) : (s.setOvr).bufSize = s.bufSize := rfl
@[simp] theorem State.setOvr_irqEn (s : State) : (s.setOvr).irqEn = s.irqEn := rfl
@[simp] theorem State.setOvr_busy (s : State) : (s.setOvr).busy = s.busy := rfl
@[simp] theorem State.setOvr_done (s : State) : (s.setOvr).done = s.done := rfl
@[simp] theorem State.setOvr_ovr (s : State) : (s.setOvr).ovr = true := rfl
@[simp] theorem State.setOvr_errCode (s : State) : (s.setOvr).errCode = s.errCode := rfl
@[simp] theorem State.setOvr_cmd (s : State) : (s.setOvr).cmd = s.cmd := rfl
@[simp] theorem State.setOvr_src0Addr (s : State) : (s.setOvr).src0Addr = s.src0Addr := rfl
@[simp] theorem State.setOvr_src0Len (s : State) : (s.setOvr).src0Len = s.src0Len := rfl
@[simp] theorem State.setOvr_src1Addr (s : State) : (s.setOvr).src1Addr = s.src1Addr := rfl
@[simp] theorem State.setOvr_src1Len (s : State) : (s.setOvr).src1Len = s.src1Len := rfl
@[simp] theorem State.setOvr_dstAddr (s : State) : (s.setOvr).dstAddr = s.dstAddr := rfl
@[simp] theorem State.setOvr_dstCap (s : State) : (s.setOvr).dstCap = s.dstCap := rfl
@[simp] theorem State.setOvr_outLen (s : State) : (s.setOvr).outLen = s.outLen := rfl
@[simp] theorem State.setOvr_resultEq (s : State) : (s.setOvr).resultEq = s.resultEq := rfl
@[simp] theorem State.setOvr_msgBits (s : State) : (s.setOvr).msgBits = s.msgBits := rfl
@[simp] theorem State.setOvr_chain (s : State) : (s.setOvr).chain = s.chain := rfl
@[simp] theorem State.setOvr_buf (s : State) : (s.setOvr).buf = s.buf := rfl
@[simp] theorem State.setOvr_draws (s : State) : (s.setOvr).draws = s.draws := rfl
@[simp] theorem State.setOvr_host (s : State) : (s.setOvr).host = s.host := rfl
@[simp] theorem State.setOvr_turns (s : State) : (s.setOvr).turns = s.turns := rfl
@[simp] theorem State.setOvr_replies (s : State) : (s.setOvr).replies = s.replies := rfl

@[simp] theorem State.drawRead_bufSize (s : State) : (s.drawRead).bufSize = s.bufSize := rfl
@[simp] theorem State.drawRead_irqEn (s : State) : (s.drawRead).irqEn = s.irqEn := rfl
@[simp] theorem State.drawRead_busy (s : State) : (s.drawRead).busy = s.busy := rfl
@[simp] theorem State.drawRead_done (s : State) : (s.drawRead).done = s.done := rfl
@[simp] theorem State.drawRead_ovr (s : State) : (s.drawRead).ovr = true := rfl
@[simp] theorem State.drawRead_errCode (s : State) : (s.drawRead).errCode = s.errCode := rfl
@[simp] theorem State.drawRead_cmd (s : State) : (s.drawRead).cmd = s.cmd := rfl
@[simp] theorem State.drawRead_src0Addr (s : State) : (s.drawRead).src0Addr = s.src0Addr := rfl
@[simp] theorem State.drawRead_src0Len (s : State) : (s.drawRead).src0Len = s.src0Len := rfl
@[simp] theorem State.drawRead_src1Addr (s : State) : (s.drawRead).src1Addr = s.src1Addr := rfl
@[simp] theorem State.drawRead_src1Len (s : State) : (s.drawRead).src1Len = s.src1Len := rfl
@[simp] theorem State.drawRead_dstAddr (s : State) : (s.drawRead).dstAddr = s.dstAddr := rfl
@[simp] theorem State.drawRead_dstCap (s : State) : (s.drawRead).dstCap = s.dstCap := rfl
@[simp] theorem State.drawRead_outLen (s : State) : (s.drawRead).outLen = s.outLen := rfl
@[simp] theorem State.drawRead_resultEq (s : State) : (s.drawRead).resultEq = s.resultEq := rfl
@[simp] theorem State.drawRead_msgBits (s : State) : (s.drawRead).msgBits = s.msgBits := rfl
@[simp] theorem State.drawRead_chain (s : State) : (s.drawRead).chain = s.chain := rfl
@[simp] theorem State.drawRead_buf (s : State) : (s.drawRead).buf = s.buf := rfl
@[simp] theorem State.drawRead_draws (s : State) : (s.drawRead).draws = s.draws + 1 := rfl
@[simp] theorem State.drawRead_host (s : State) : (s.drawRead).host = s.host := rfl
@[simp] theorem State.drawRead_turns (s : State) : (s.drawRead).turns = s.turns := rfl
@[simp] theorem State.drawRead_replies (s : State) : (s.drawRead).replies = s.replies := rfl

@[simp] theorem State.addReply_bufSize (s : State) (r : Reply) : (s.addReply r).bufSize = s.bufSize := rfl
@[simp] theorem State.addReply_irqEn (s : State) (r : Reply) : (s.addReply r).irqEn = s.irqEn := rfl
@[simp] theorem State.addReply_busy (s : State) (r : Reply) : (s.addReply r).busy = s.busy := rfl
@[simp] theorem State.addReply_done (s : State) (r : Reply) : (s.addReply r).done = s.done := rfl
@[simp] theorem State.addReply_ovr (s : State) (r : Reply) : (s.addReply r).ovr = s.ovr := rfl
@[simp] theorem State.addReply_errCode (s : State) (r : Reply) : (s.addReply r).errCode = s.errCode := rfl
@[simp] theorem State.addReply_cmd (s : State) (r : Reply) : (s.addReply r).cmd = s.cmd := rfl
@[simp] theorem State.addReply_src0Addr (s : State) (r : Reply) : (s.addReply r).src0Addr = s.src0Addr := rfl
@[simp] theorem State.addReply_src0Len (s : State) (r : Reply) : (s.addReply r).src0Len = s.src0Len := rfl
@[simp] theorem State.addReply_src1Addr (s : State) (r : Reply) : (s.addReply r).src1Addr = s.src1Addr := rfl
@[simp] theorem State.addReply_src1Len (s : State) (r : Reply) : (s.addReply r).src1Len = s.src1Len := rfl
@[simp] theorem State.addReply_dstAddr (s : State) (r : Reply) : (s.addReply r).dstAddr = s.dstAddr := rfl
@[simp] theorem State.addReply_dstCap (s : State) (r : Reply) : (s.addReply r).dstCap = s.dstCap := rfl
@[simp] theorem State.addReply_outLen (s : State) (r : Reply) : (s.addReply r).outLen = s.outLen := rfl
@[simp] theorem State.addReply_resultEq (s : State) (r : Reply) : (s.addReply r).resultEq = s.resultEq := rfl
@[simp] theorem State.addReply_msgBits (s : State) (r : Reply) : (s.addReply r).msgBits = s.msgBits := rfl
@[simp] theorem State.addReply_chain (s : State) (r : Reply) : (s.addReply r).chain = s.chain := rfl
@[simp] theorem State.addReply_buf (s : State) (r : Reply) : (s.addReply r).buf = s.buf := rfl
@[simp] theorem State.addReply_draws (s : State) (r : Reply) : (s.addReply r).draws = s.draws := rfl
@[simp] theorem State.addReply_host (s : State) (r : Reply) : (s.addReply r).host = s.host := rfl
@[simp] theorem State.addReply_turns (s : State) (r : Reply) : (s.addReply r).turns = s.turns := rfl
@[simp] theorem State.addReply_replies (s : State) (r : Reply) : (s.addReply r).replies = r :: s.replies := rfl

@[simp] theorem State.writeMsgBitsLo_bufSize (s : State) (w : Word) : (s.writeMsgBitsLo w).bufSize = s.bufSize := rfl
@[simp] theorem State.writeMsgBitsLo_irqEn (s : State) (w : Word) : (s.writeMsgBitsLo w).irqEn = s.irqEn := rfl
@[simp] theorem State.writeMsgBitsLo_busy (s : State) (w : Word) : (s.writeMsgBitsLo w).busy = s.busy := rfl
@[simp] theorem State.writeMsgBitsLo_done (s : State) (w : Word) : (s.writeMsgBitsLo w).done = s.done := rfl
@[simp] theorem State.writeMsgBitsLo_ovr (s : State) (w : Word) : (s.writeMsgBitsLo w).ovr = s.ovr := rfl
@[simp] theorem State.writeMsgBitsLo_errCode (s : State) (w : Word) : (s.writeMsgBitsLo w).errCode = s.errCode := rfl
@[simp] theorem State.writeMsgBitsLo_cmd (s : State) (w : Word) : (s.writeMsgBitsLo w).cmd = s.cmd := rfl
@[simp] theorem State.writeMsgBitsLo_src0Addr (s : State) (w : Word) : (s.writeMsgBitsLo w).src0Addr = s.src0Addr := rfl
@[simp] theorem State.writeMsgBitsLo_src0Len (s : State) (w : Word) : (s.writeMsgBitsLo w).src0Len = s.src0Len := rfl
@[simp] theorem State.writeMsgBitsLo_src1Addr (s : State) (w : Word) : (s.writeMsgBitsLo w).src1Addr = s.src1Addr := rfl
@[simp] theorem State.writeMsgBitsLo_src1Len (s : State) (w : Word) : (s.writeMsgBitsLo w).src1Len = s.src1Len := rfl
@[simp] theorem State.writeMsgBitsLo_dstAddr (s : State) (w : Word) : (s.writeMsgBitsLo w).dstAddr = s.dstAddr := rfl
@[simp] theorem State.writeMsgBitsLo_dstCap (s : State) (w : Word) : (s.writeMsgBitsLo w).dstCap = s.dstCap := rfl
@[simp] theorem State.writeMsgBitsLo_outLen (s : State) (w : Word) : (s.writeMsgBitsLo w).outLen = s.outLen := rfl
@[simp] theorem State.writeMsgBitsLo_resultEq (s : State) (w : Word) : (s.writeMsgBitsLo w).resultEq = s.resultEq := rfl
@[simp] theorem State.writeMsgBitsLo_msgBits (s : State) (w : Word) : (s.writeMsgBitsLo w).msgBits = s.msgBits.extractLsb' 32 32 ++ w := rfl
@[simp] theorem State.writeMsgBitsLo_chain (s : State) (w : Word) : (s.writeMsgBitsLo w).chain = s.chain := rfl
@[simp] theorem State.writeMsgBitsLo_buf (s : State) (w : Word) : (s.writeMsgBitsLo w).buf = s.buf := rfl
@[simp] theorem State.writeMsgBitsLo_draws (s : State) (w : Word) : (s.writeMsgBitsLo w).draws = s.draws := rfl
@[simp] theorem State.writeMsgBitsLo_host (s : State) (w : Word) : (s.writeMsgBitsLo w).host = s.host := rfl
@[simp] theorem State.writeMsgBitsLo_turns (s : State) (w : Word) : (s.writeMsgBitsLo w).turns = s.turns := rfl
@[simp] theorem State.writeMsgBitsLo_replies (s : State) (w : Word) : (s.writeMsgBitsLo w).replies = s.replies := rfl

@[simp] theorem State.writeMsgBitsHi_bufSize (s : State) (w : Word) : (s.writeMsgBitsHi w).bufSize = s.bufSize := rfl
@[simp] theorem State.writeMsgBitsHi_irqEn (s : State) (w : Word) : (s.writeMsgBitsHi w).irqEn = s.irqEn := rfl
@[simp] theorem State.writeMsgBitsHi_busy (s : State) (w : Word) : (s.writeMsgBitsHi w).busy = s.busy := rfl
@[simp] theorem State.writeMsgBitsHi_done (s : State) (w : Word) : (s.writeMsgBitsHi w).done = s.done := rfl
@[simp] theorem State.writeMsgBitsHi_ovr (s : State) (w : Word) : (s.writeMsgBitsHi w).ovr = s.ovr := rfl
@[simp] theorem State.writeMsgBitsHi_errCode (s : State) (w : Word) : (s.writeMsgBitsHi w).errCode = s.errCode := rfl
@[simp] theorem State.writeMsgBitsHi_cmd (s : State) (w : Word) : (s.writeMsgBitsHi w).cmd = s.cmd := rfl
@[simp] theorem State.writeMsgBitsHi_src0Addr (s : State) (w : Word) : (s.writeMsgBitsHi w).src0Addr = s.src0Addr := rfl
@[simp] theorem State.writeMsgBitsHi_src0Len (s : State) (w : Word) : (s.writeMsgBitsHi w).src0Len = s.src0Len := rfl
@[simp] theorem State.writeMsgBitsHi_src1Addr (s : State) (w : Word) : (s.writeMsgBitsHi w).src1Addr = s.src1Addr := rfl
@[simp] theorem State.writeMsgBitsHi_src1Len (s : State) (w : Word) : (s.writeMsgBitsHi w).src1Len = s.src1Len := rfl
@[simp] theorem State.writeMsgBitsHi_dstAddr (s : State) (w : Word) : (s.writeMsgBitsHi w).dstAddr = s.dstAddr := rfl
@[simp] theorem State.writeMsgBitsHi_dstCap (s : State) (w : Word) : (s.writeMsgBitsHi w).dstCap = s.dstCap := rfl
@[simp] theorem State.writeMsgBitsHi_outLen (s : State) (w : Word) : (s.writeMsgBitsHi w).outLen = s.outLen := rfl
@[simp] theorem State.writeMsgBitsHi_resultEq (s : State) (w : Word) : (s.writeMsgBitsHi w).resultEq = s.resultEq := rfl
@[simp] theorem State.writeMsgBitsHi_msgBits (s : State) (w : Word) : (s.writeMsgBitsHi w).msgBits = w ++ s.msgBits.extractLsb' 0 32 := rfl
@[simp] theorem State.writeMsgBitsHi_chain (s : State) (w : Word) : (s.writeMsgBitsHi w).chain = s.chain := rfl
@[simp] theorem State.writeMsgBitsHi_buf (s : State) (w : Word) : (s.writeMsgBitsHi w).buf = s.buf := rfl
@[simp] theorem State.writeMsgBitsHi_draws (s : State) (w : Word) : (s.writeMsgBitsHi w).draws = s.draws := rfl
@[simp] theorem State.writeMsgBitsHi_host (s : State) (w : Word) : (s.writeMsgBitsHi w).host = s.host := rfl
@[simp] theorem State.writeMsgBitsHi_turns (s : State) (w : Word) : (s.writeMsgBitsHi w).turns = s.turns := rfl
@[simp] theorem State.writeMsgBitsHi_replies (s : State) (w : Word) : (s.writeMsgBitsHi w).replies = s.replies := rfl

@[simp] theorem State.clearRegisters_bufSize (s : State) : (s.clearRegisters).bufSize = s.bufSize := rfl
@[simp] theorem State.clearRegisters_irqEn (s : State) : (s.clearRegisters).irqEn = false := rfl
@[simp] theorem State.clearRegisters_busy (s : State) : (s.clearRegisters).busy = false := rfl
@[simp] theorem State.clearRegisters_done (s : State) : (s.clearRegisters).done = false := rfl
@[simp] theorem State.clearRegisters_ovr (s : State) : (s.clearRegisters).ovr = false := rfl
@[simp] theorem State.clearRegisters_errCode (s : State) : (s.clearRegisters).errCode = .ok := rfl
@[simp] theorem State.clearRegisters_cmd (s : State) : (s.clearRegisters).cmd = 0 := rfl
@[simp] theorem State.clearRegisters_src0Addr (s : State) : (s.clearRegisters).src0Addr = 0 := rfl
@[simp] theorem State.clearRegisters_src0Len (s : State) : (s.clearRegisters).src0Len = 0 := rfl
@[simp] theorem State.clearRegisters_src1Addr (s : State) : (s.clearRegisters).src1Addr = 0 := rfl
@[simp] theorem State.clearRegisters_src1Len (s : State) : (s.clearRegisters).src1Len = 0 := rfl
@[simp] theorem State.clearRegisters_dstAddr (s : State) : (s.clearRegisters).dstAddr = 0 := rfl
@[simp] theorem State.clearRegisters_dstCap (s : State) : (s.clearRegisters).dstCap = 0 := rfl
@[simp] theorem State.clearRegisters_outLen (s : State) : (s.clearRegisters).outLen = 0 := rfl
@[simp] theorem State.clearRegisters_resultEq (s : State) : (s.clearRegisters).resultEq = false := rfl
@[simp] theorem State.clearRegisters_msgBits (s : State) : (s.clearRegisters).msgBits = 0 := rfl
@[simp] theorem State.clearRegisters_chain (s : State) : (s.clearRegisters).chain = Chain.zero := rfl
@[simp] theorem State.clearRegisters_buf (s : State) : (s.clearRegisters).buf = s.buf := rfl
@[simp] theorem State.clearRegisters_draws (s : State) : (s.clearRegisters).draws = s.draws := rfl
@[simp] theorem State.clearRegisters_host (s : State) : (s.clearRegisters).host = s.host := rfl
@[simp] theorem State.clearRegisters_turns (s : State) : (s.clearRegisters).turns = s.turns := rfl
@[simp] theorem State.clearRegisters_replies (s : State) : (s.clearRegisters).replies = s.replies := rfl

end Sys2Proof.Machine
end

