-- ==== Sys2Proof/Laws/Ops.lean ====
section
/-! SUPPORT. What each shared operation can do, said once: the output primitive, the range checks, the decoders' end. -/

namespace Sys2Proof.Machine

open Sys2Proof

/-- The output primitive writes and completes, or overflows and leaves what the command began with. -/
theorem State.emit_cases (s : State) (out : Bytes) (staged : State) :
    (out.length ≤ s.dstCap.toNat ∧
      s.emit out staged =
        { staged with buf := s.buf.writeBytes s.dstAddr.toNat out }.complete out.length) ∨
    (s.dstCap.toNat < out.length ∧ s.emit out staged = s.raiseError .dstOvf out.length) := by
  unfold State.emit
  split
  · exact .inl ⟨by assumption, rfl⟩
  · exact .inr ⟨by omega, rfl⟩

theorem State.emit_ok (s : State) (out : Bytes) (staged : State) (h : out.length ≤ s.dstCap.toNat) :
    s.emit out staged = { staged with buf := s.buf.writeBytes s.dstAddr.toNat out }.complete out.length :=
  if_pos h

theorem State.emit_overflow (s : State) (out : Bytes) (staged : State) (h : s.dstCap.toNat < out.length) :
    s.emit out staged = s.raiseError .dstOvf out.length :=
  if_neg (by omega)

/-- The range checks let the body through or end in RANGE. -/
theorem State.checked_cases (s : State) (i : Instr) (body : State) :
    (s.operandsOk i = true ∧ s.checked i body = body) ∨
    (s.operandsOk i = false ∧ s.checked i body = s.raiseError .range 0) := by
  unfold State.checked
  cases h : s.operandsOk i
  · exact .inr ⟨rfl, by simp⟩
  · exact .inl ⟨rfl, by simp⟩

theorem State.checked_ok (s : State) (i : Instr) (body : State) (h : s.operandsOk i = true) :
    s.checked i body = body := by simp [State.checked, h]

theorem State.checked_fail (s : State) (i : Instr) (body : State) (h : s.operandsOk i = false) :
    s.checked i body = s.raiseError .range 0 := by simp [State.checked, h]

/-- The operand checks in plain arithmetic, over the operands the command uses. -/
theorem State.operandsOk_iff (s : State) (i : Instr) :
    s.operandsOk i = true ↔
      (Operand.src0 ∈ operandsOf i → s.src0Fits) ∧ (Operand.src1 ∈ operandsOf i → s.src1Fits) ∧
        (Operand.dst ∈ operandsOf i → s.dstFits) := by
  simp only [State.operandsOk, List.all_eq_true]
  constructor
  · intro h
    exact ⟨fun m => by simpa [State.operandInRange, State.inRange] using h _ m,
      fun m => by simpa [State.operandInRange, State.inRange] using h _ m,
      fun m => by simpa [State.operandInRange, State.inRange] using h _ m⟩
  · rintro ⟨h0, h1, h2⟩ o m
    cases o
    · simpa [State.operandInRange, State.inRange] using h0 m
    · simpa [State.operandInRange, State.inRange] using h1 m
    · simpa [State.operandInRange, State.inRange] using h2 m

/-- A decoder ends in DECODE or in the output primitive. -/
theorem State.emitDecoded_cases (s : State) (o : Option Bytes) :
    (o = none ∧ s.emitDecoded o = s.raiseError .decode 0) ∨
    (∃ out, o = some out ∧ s.emitDecoded o = s.emit out s) := by
  cases o with
  | none => exact .inl ⟨rfl, rfl⟩
  | some out => exact .inr ⟨out, rfl, rfl⟩

@[simp] theorem State.src0Bytes_length (s : State) : s.src0Bytes.length = s.src0Len.toNat := by
  simp [State.src0Bytes]

@[simp] theorem State.src1Bytes_length (s : State) : s.src1Bytes.length = s.src1Len.toNat := by
  simp [State.src1Bytes]

theorem State.raiseError_eq_failed (s : State) (c : ErrCode) (n : Nat) :
    s.raiseError c n = s.failed c (recordedLength c n) := rfl

/-- How a command's state can differ from the state it began in: it completes OK with staged values and an output
inside the destination's capacity, or it ends in an error that changes nothing else. -/
def CommandResult (s t : State) : Prop :=
  (∃ (c : Chain) (b : BitVec 64) (eq : Bool) (out : Bytes) (n : Nat),
      out.length ≤ s.dstCap.toNat ∧ (out ≠ [] → s.dstFits ∧ n = out.length) ∧ n < 2 ^ 32 ∧
      t = ({ s with chain := c, msgBits := b, resultEq := eq,
                    buf := s.buf.writeBytes s.dstAddr.toNat out } : State).complete n) ∨
  ∃ (e : ErrCode) (n : Nat), e ≠ .ok ∧ t = s.raiseError e n

theorem CommandResult.of_emit (s : State) (out : Bytes) (c : Chain) (b : BitVec 64) (h : s.dstFits) :
    CommandResult s (s.emit out (s.stage c b)) := by
  rcases s.emit_cases out (s.stage c b) with ⟨hl, he⟩ | ⟨_, he⟩
  · exact .inl ⟨c, b, s.resultEq, out, out.length, hl, fun _ => ⟨h, rfl⟩, by omega, he⟩
  · exact .inr ⟨.dstOvf, out.length, by decide, he⟩

theorem CommandResult.of_emit_self (s : State) (out : Bytes) (h : s.dstFits) :
    CommandResult s (s.emit out s) :=
  CommandResult.of_emit s out s.chain s.msgBits h

theorem CommandResult.of_emitDecoded (s : State) (o : Option Bytes) (h : s.dstFits) :
    CommandResult s (s.emitDecoded o) := by
  rcases s.emitDecoded_cases o with ⟨_, he⟩ | ⟨out, _, he⟩
  · exact .inr ⟨.decode, 0, by decide, he⟩
  · rw [he]; exact CommandResult.of_emit_self s out h

theorem CommandResult.of_checked (s : State) (i : Instr) (body : State)
    (h : s.operandsOk i = true → CommandResult s body) : CommandResult s (s.checked i body) := by
  rcases s.checked_cases i body with ⟨hok, he⟩ | ⟨_, he⟩
  · rw [he]; exact h hok
  · exact .inr ⟨.range, 0, by decide, he⟩

theorem CommandResult.of_complete (s : State) (c : Chain) (b : BitVec 64) (eq : Bool) :
    CommandResult s (({ s with chain := c, msgBits := b, resultEq := eq } : State).complete 0) :=
  .inl ⟨c, b, eq, [], 0, by simp, by simp, by simp, rfl⟩

theorem dstFits_of_operandsOk (s : State) (i : Instr) (hi : Operand.dst ∈ operandsOf i)
    (h : s.operandsOk i = true) : s.dstFits :=
  ((s.operandsOk_iff i).mp h).2.2 hi

end Sys2Proof.Machine
end

