-- ==== Sys2Proof/Laws/Bus.lean ====
section
/-! SUPPORT. The host bus: where an address leads, what a transaction does there, and what the reset writes. -/

namespace Sys2Proof.Machine

open Sys2Proof

/-! ### The register block -/

theorem regAt_offset (r : Reg) : regAt (Reg.offset r) = some r := by
  cases r
  case state i => revert i; decide
  all_goals rfl

theorem regAddr_toNat (r : Reg) : (regAddr r).toNat = Reg.offset r := by
  cases r
  case state i => revert i; decide
  all_goals rfl

theorem regOffset_lt (r : Reg) : Reg.offset r < 0x100 := by
  cases r <;> simp only [Reg.offset]
  all_goals omega

theorem regOffset_aligned (r : Reg) : Reg.offset r % 4 = 0 := by
  cases r <;> simp only [Reg.offset]
  all_goals omega

theorem transact_rd32_reg (s : State) (r : Reg) : s.transact (.rd32 (regAddr r)) = (s, .okayRead32 (s.readReg r)) := by
  have h1 := regOffset_lt r
  simp [State.transact, busAccepts, State.read32, State.region, State.readOffset, regAddr_toNat, regOffset_aligned r,
    regAt_offset, h1]

theorem transact_wr32_reg (s : State) (r : Reg) (w : Word) :
    s.transact (.wr32 (regAddr r) w) = (s.writeOffset (Reg.offset r) w, .okayWrite) := by
  have h1 := regOffset_lt r
  simp [State.transact, busAccepts, State.write32, State.region, regAddr_toNat, regOffset_aligned r, h1]

theorem State.writeOffset_idle (s : State) (r : Reg) (w : Word) (h : s.busy = false) :
    s.writeOffset (Reg.offset r) w = s.writeRegIdle w r := by
  simp only [State.writeOffset, regAt_offset, h]

theorem State.writeOffset_busy (s : State) (r : Reg) (w : Word) (h : s.busy = true) :
    s.writeOffset (Reg.offset r) w = s.writeRegBusy w r := by
  simp only [State.writeOffset, regAt_offset, h]

/-! ### Where an address leads -/

theorem State.region_regs (s : State) (a : HostAddr) (h : a.toNat < 0x100) : s.region a = .regs a.toNat := if_pos h

theorem State.region_low_reserved (s : State) (a : HostAddr) (h1 : 0x100 ≤ a.toNat) (h2 : a.toNat < 0x8000) :
    s.region a = .reserved := by
  rw [State.region, if_neg (by omega), if_pos h2]

theorem State.region_buf (s : State) (a : HostAddr) (h1 : 0x8000 ≤ a.toNat) (h2 : a.toNat < 0x8000 + s.bufSize) :
    s.region a = .buf (a.toNat - 0x8000) := by
  rw [State.region, if_neg (by omega), if_neg (by omega), if_pos h2]

theorem State.region_high_reserved (s : State) (a : HostAddr) (h : 0x8000 + s.bufSize ≤ a.toNat) :
    s.region a = .reserved := by
  rw [State.region, if_neg (by omega), if_neg (by omega), if_neg (by omega)]

/-- The region is where the address map says. -/
theorem State.region_cases (s : State) (a : HostAddr) :
    (a.toNat < 0x100 ∧ s.region a = .regs a.toNat) ∨
    (((0x100 ≤ a.toNat ∧ a.toNat < 0x8000) ∨ 0x8000 + s.bufSize ≤ a.toNat) ∧ s.region a = .reserved) ∨
    (0x8000 ≤ a.toNat ∧ a.toNat < 0x8000 + s.bufSize ∧ s.region a = .buf (a.toNat - 0x8000)) := by
  by_cases h1 : a.toNat < 0x100
  · exact .inl ⟨h1, s.region_regs a h1⟩
  · by_cases h2 : a.toNat < 0x8000
    · exact .inr (.inl ⟨.inl ⟨by omega, h2⟩, s.region_low_reserved a (by omega) h2⟩)
    · by_cases h3 : a.toNat < 0x8000 + s.bufSize
      · exact .inr (.inr ⟨by omega, h3, s.region_buf a (by omega) h3⟩)
      · exact .inr (.inl ⟨.inr (by omega), s.region_high_reserved a (by omega)⟩)

theorem busAccepts_8 (a : HostAddr) : busAccepts a false = decide (0x100 ≤ a.toNat) := by
  unfold busAccepts
  by_cases h : a.toNat < 0x100
  · rw [if_pos h]; simpa using h
  · rw [if_neg h]; simp; omega

theorem busAccepts_32 (a : HostAddr) : busAccepts a true = decide (a.toNat % 4 = 0) := by
  unfold busAccepts
  by_cases h : a.toNat < 0x100 <;> simp [h] <;> rfl

/-! ### Soft reset and abort -/

/-- An abort changes BUF and the draws counter only. -/
theorem State.abort_cases (s : State) :
    (s.pendingWritesDst = false ∧ s.abort = s) ∨
    (s.pendingWritesDst = true ∧ s.abort = { s with
      buf := s.buf.writeBytes s.dstAddr.toNat (s.abortRange.map (Config.abortByte s.draws)), draws := s.draws + 1 }) := by
  unfold State.abort
  cases h : s.pendingWritesDst
  · exact .inl ⟨rfl, by simp⟩
  · exact .inr ⟨rfl, by simp⟩

theorem State.abortRange_length (s : State) :
    s.abortRange.length = min s.dstCap.toNat (s.bufSize - s.dstAddr.toNat) := by simp [State.abortRange]

/-- The words of STATE read back as written. -/
theorem Chain.get_set_self (c : Chain) (i : Fin 8) (v : Word) : (c.set i v).get i = v := by
  obtain ⟨n, hn⟩ := i
  rcases n with _ | _ | _ | _ | _ | _ | _ | _ | n
  all_goals first | rfl | omega

theorem Chain.get_set_other (c : Chain) (i j : Fin 8) (v : Word) (h : j ≠ i) : (c.set i v).get j = c.get j := by
  obtain ⟨n, hn⟩ := i
  obtain ⟨k, hk⟩ := j
  rcases n with _ | _ | _ | _ | _ | _ | _ | _ | n <;> rcases k with _ | _ | _ | _ | _ | _ | _ | _ | k
  all_goals first | rfl | omega

end Sys2Proof.Machine
end

