-- ==== Sys2Proof/Laws/Codec.lean ====
section
/-! SUPPORT. The codec functions: each alphabet and its inverse, the lengths of the texts. -/

namespace Sys2Proof.Machine

open Sys2Proof

/-- HEXVAL inverts HEXCH. -/
theorem hexVal_hexCh (v : Nat) (h : v < 16) : hexVal (hexCh v) = some v := by
  have all : ∀ x : Fin 16, hexVal (hexCh x.val) = some x.val := by decide
  exact all ⟨v, h⟩

/-- A hex digit's value is below 16. -/
theorem hexVal_lt (c : Byte) (v : Nat) (h : hexVal c = some v) : v < 16 := by
  unfold hexVal at h
  split at h
  · simp only [Option.some.injEq] at h; omega
  · split at h
    · simp only [Option.some.injEq] at h; omega
    · split at h
      · simp only [Option.some.injEq] at h; omega
      · cases h

/-- B64VAL inverts B64CH. -/
theorem b64Val_b64Ch (v : Nat) (h : v < 64) : b64Val (b64Ch v) = some v := by
  have all : ∀ x : Fin 64, b64Val (b64Ch x.val) = some x.val := by decide
  exact all ⟨v, h⟩

/-- No alphabet character is the pad character. -/
theorem b64Ch_ne_pad (v : Nat) (h : v < 64) : b64Ch v ≠ b64PadChar := by
  have all : ∀ x : Fin 64, b64Ch x.val ≠ b64PadChar := by decide
  exact all ⟨v, h⟩

/-- B64CH inverts B64VAL, whose values are sextets. -/
theorem b64Ch_b64Val (c : Byte) (v : Nat) (h : b64Val c = some v) : v < 64 ∧ b64Ch v = c := by
  have all : ∀ x : Fin 256, ∀ w ∈ b64Val (BitVec.ofNat 8 x.val), w < 64 ∧ b64Ch w = BitVec.ofNat 8 x.val := by
    decide +kernel
  simpa using all ⟨c.toNat, c.isLt⟩ v (by simpa using h)

theorem b64Sextet_lt (v j : Nat) : b64Sextet v j < 64 := Nat.mod_lt _ (by decide)

/-- The four sextets make up the 24-bit value. -/
theorem b64Sextet_sum (v : Nat) (h : v < 2 ^ 24) :
    b64Sextet v 0 * 2 ^ 18 + b64Sextet v 1 * 2 ^ 12 + b64Sextet v 2 * 2 ^ 6 + b64Sextet v 3 = v := by
  simp only [b64Sextet]; omega

theorem b64Value_lt (a b c : Byte) : b64Value a b c < 2 ^ 24 := by
  have := a.isLt; have := b.isLt; have := c.isLt
  simp only [b64Value]; omega

/-- The three bytes of a 24-bit value are the bytes it was made of. -/
theorem b64Bytes_b64Value (a b c : Byte) : b64Bytes (b64Value a b c) = [a, b, c] := by
  have := a.isLt; have := b.isLt; have := c.isLt
  simp only [b64Bytes, b64Value, List.cons.injEq, and_true]
  refine ⟨?_, ?_, ?_⟩ <;> apply BitVec.eq_of_toNat_eq <;> simp only [BitVec.toNat_ofNat] <;> omega

theorem hexEncode_false_cons (b : Byte) (bs : Bytes) : hexEncode false (b :: bs) = hexPair b ++ hexEncode false bs := by
  cases bs <;> simp [hexEncode]

@[simp] theorem hexEncode_false_length (m : Bytes) : (hexEncode false m).length = 2 * m.length := by
  induction m with
  | nil => rfl
  | cons b m ih => rw [hexEncode_false_cons, List.length_append, ih]; simp [hexPair]; omega

theorem hexEncode_true_length (m : Bytes) : (hexEncode true m).length = 3 * m.length - 1 := by
  cases m with
  | nil => rfl
  | cons b m =>
    have : ∀ l : Bytes, (l.flatMap fun c => [0x20] ++ hexPair c).length = 3 * l.length := by
      intro l
      induction l with
      | nil => rfl
      | cons c l ih => rw [List.flatMap_cons, List.length_append, ih]; simp [hexPair]; omega
    simp only [hexEncode, if_true, List.length_append, this]
    simp [hexPair]; omega

@[simp] theorem b64Encode_length (m : Bytes) : (b64Encode m).length = 4 * ((m.length + 2) / 3) := by
  fun_induction b64Encode m with
  | case1 => rfl
  | case2 => simp
  | case3 => simp
  | case4 a b c t ih => rw [List.length_append, ih]; simp; omega

/-- The characters of the Base64 text, quartet by quartet. -/
theorem b64Encode_getD (m : Bytes) (q j : Nat) (hq : q < (m.length + 2) / 3) (hj : j < 4) :
    (b64Encode m).getD (4 * q + j) 0 =
      if j ≤ min 3 (m.length - 3 * q) then
        b64Ch (b64Sextet (b64Value (m.getD (3 * q) 0) (m.getD (3 * q + 1) 0) (m.getD (3 * q + 2) 0)) j)
      else 0x3D := by
  fun_induction b64Encode m generalizing q with
  | case1 => simp at hq
  | case2 a =>
    have : q = 0 := by simp at hq; omega
    subst this
    rcases j with _ | _ | _ | _ | j <;> simp_all [b64PadChar]
    omega
  | case3 a b =>
    have : q = 0 := by simp at hq; omega
    subst this
    rcases j with _ | _ | _ | _ | j <;> simp_all [b64PadChar]
    omega
  | case4 a b c t ih =>
    cases q with
    | zero => rcases j with _ | _ | _ | _ | j <;> simp_all <;> omega
    | succ q =>
      have := ih q (by simp at hq; omega)
      have e1 : 4 * (q + 1) + j = 4 * q + j + 4 := by omega
      rw [e1]
      have e2 : (a :: b :: c :: t).length - 3 * (q+1) = t.length - 3 * q := by simp; omega
      rw [e2]
      have e3 : 3 * (q + 1) = 3 * q + 3 := by omega
      rw [e3]
      simp only [List.cons_append, List.nil_append, List.getD_cons_succ]
      simpa only [Nat.add_right_comm _ 3, Nat.add_assoc, List.getD_cons_succ, Nat.reduceAdd] using this

/-- The text of R160 and R161 is what the encoder writes. -/
theorem base64Text_iff (text b : Bytes) : Base64Text text b ↔ text = b64Encode b := by
  constructor
  · rintro ⟨hl, hc⟩
    apply List.ext_getElem
    · rw [hl, b64Encode_length]
    · intro k h1 h2
      have h := hc (k / 4) (by omega) (k % 4) (by omega)
      have e := b64Encode_getD b (k / 4) (k % 4) (by omega) (by omega)
      have hk : 4 * (k / 4) + k % 4 = k := by omega
      rw [hk] at h e
      have h' := h.trans e.symm
      rwa [List.getD_eq_getElem _ _ h1, List.getD_eq_getElem _ _ h2] at h'
  · rintro rfl
    exact ⟨b64Encode_length b, fun q hq j hj => b64Encode_getD b q j hq hj⟩

end Sys2Proof.Machine
end

