-- ==== Sys2Proof/Laws/Digest.lean ====
section
/-! SUPPORT. The digest core: which words of STATE a compression touches, lengths of digests and padding, blocks of BUF.
The lemmas about one word are stated over any new words, so that no proof unfolds a compression function;
(rfl) rather than rfl keeps simp from leaving them to the kernel, which would unfold it. -/

namespace Sys2Proof.Machine

open Sys2Proof

theorem compress_sha256 (c : Chain) (b : Bytes) : compress .sha256 c b = c256 c b := (rfl)
theorem compress_sha1 (c : Chain) (b : Bytes) : compress .sha1 c b = c.withSha1 (c1 c.sha1Vars b) := (rfl)
theorem compress_md5 (c : Chain) (b : Bytes) : compress .md5 c b = c.withMd5 (c5 c.md5Vars b) := (rfl)

@[simp] theorem Chain.withSha1_s0 (c : Chain) (v : Sha1Vars) : (c.withSha1 v).s0 = v.a := (rfl)
@[simp] theorem Chain.withSha1_s1 (c : Chain) (v : Sha1Vars) : (c.withSha1 v).s1 = v.b := (rfl)
@[simp] theorem Chain.withSha1_s2 (c : Chain) (v : Sha1Vars) : (c.withSha1 v).s2 = v.c := (rfl)
@[simp] theorem Chain.withSha1_s3 (c : Chain) (v : Sha1Vars) : (c.withSha1 v).s3 = v.d := (rfl)
@[simp] theorem Chain.withSha1_s4 (c : Chain) (v : Sha1Vars) : (c.withSha1 v).s4 = v.e := (rfl)
@[simp] theorem Chain.withSha1_s5 (c : Chain) (v : Sha1Vars) : (c.withSha1 v).s5 = c.s5 := (rfl)
@[simp] theorem Chain.withSha1_s6 (c : Chain) (v : Sha1Vars) : (c.withSha1 v).s6 = c.s6 := (rfl)
@[simp] theorem Chain.withSha1_s7 (c : Chain) (v : Sha1Vars) : (c.withSha1 v).s7 = c.s7 := (rfl)
@[simp] theorem Chain.withMd5_s0 (c : Chain) (v : Md5Vars) : (c.withMd5 v).s0 = v.a := (rfl)
@[simp] theorem Chain.withMd5_s1 (c : Chain) (v : Md5Vars) : (c.withMd5 v).s1 = v.b := (rfl)
@[simp] theorem Chain.withMd5_s2 (c : Chain) (v : Md5Vars) : (c.withMd5 v).s2 = v.c := (rfl)
@[simp] theorem Chain.withMd5_s3 (c : Chain) (v : Md5Vars) : (c.withMd5 v).s3 = v.d := (rfl)
@[simp] theorem Chain.withMd5_s4 (c : Chain) (v : Md5Vars) : (c.withMd5 v).s4 = c.s4 := (rfl)
@[simp] theorem Chain.withMd5_s5 (c : Chain) (v : Md5Vars) : (c.withMd5 v).s5 = c.s5 := (rfl)
@[simp] theorem Chain.withMd5_s6 (c : Chain) (v : Md5Vars) : (c.withMd5 v).s6 = c.s6 := (rfl)
@[simp] theorem Chain.withMd5_s7 (c : Chain) (v : Md5Vars) : (c.withMd5 v).s7 = c.s7 := (rfl)

@[simp] theorem be32_length (w : Word) : (be32 w).length = 4 := rfl
@[simp] theorem le32_length (w : Word) : (le32 w).length = 4 := rfl
@[simp] theorem be64_length (v : BitVec 64) : (be64 v).length = 8 := rfl
@[simp] theorem le64_length (v : BitVec 64) : (le64 v).length = 8 := rfl

@[simp] theorem len64_length (alg : Alg) (l : Nat) : (len64 alg l).length = 8 := by cases alg <;> rfl

@[simp] theorem digest_length (alg : Alg) (c : Chain) : (digest alg c).length = digestLen alg := by cases alg <;> rfl

@[simp] theorem hashFn_length (alg : Alg) (m : Bytes) : (hashFn alg m).length = digestLen alg := by simp [hashFn]

theorem digestLen_le (alg : Alg) : digestLen alg ≤ 32 := by cases alg <;> decide

/-- Compressing k whole blocks and then the rest is compressing all of it. -/
theorem blocksOf_append (k j : Nat) (a b : Bytes) (h : a.length = 64 * k) :
    blocksOf (k + j) (a ++ b) = blocksOf k a ++ blocksOf j b := by
  induction k generalizing a with
  | zero => simp_all [blocksOf]
  | succ k ih =>
    rw [show k + 1 + j = (k + j) + 1 by omega, blocksOf, blocksOf]
    rw [List.take_append_of_le_length (by omega), List.drop_append_of_le_length (by omega),
      ih (a.drop 64) (by simp [h]; omega)]
    rfl

theorem compressAll_append (alg : Alg) (c : Chain) (a b : Bytes) (h : a.length % 64 = 0) :
    compressAll alg c (a ++ b) = compressAll alg (compressAll alg c a) b := by
  unfold compressAll
  have h1 : a.length = 64 * (a.length / 64) := by omega
  have h2 : (a ++ b).length / 64 = a.length / 64 + b.length / 64 := by rw [List.length_append]; omega
  rw [h2, blocksOf_append _ _ _ _ h1, List.foldl_append]

/-- The blocks of a range of BUF, read one by one. -/
theorem blocksOf_readBytes (m : Memory) (k a : Nat) :
    blocksOf k (m.readBytes a (64 * k)) = (List.range k).map fun j => m.readBytes (a + 64 * j) 64 := by
  induction k generalizing a with
  | zero => rfl
  | succ k ih =>
    rw [show 64 * (k + 1) = 64 + 64 * k by omega, Memory.readBytes_add, blocksOf]
    rw [List.take_left' (by simp), List.drop_left' (by simp), ih, List.range_succ_eq_map]
    simp [Function.comp_def, Nat.mul_add, Nat.add_assoc, Nat.add_comm]

end Sys2Proof.Machine
end

