-- ==== Sys2Proof/Laws/Exec.lean ====
section
/-! SUPPORT. Every command answers a next state of one shape: the inversion lemma of exec. -/

namespace Sys2Proof.Machine

open Sys2Proof

theorem hashInitBody_result (alg : Alg) (s : State) : CommandResult s (hashInitBody alg s) :=
  CommandResult.of_complete s (iv alg) 0 s.resultEq

theorem hashBlockBody_result (alg : Alg) (s : State) : CommandResult s (hashBlockBody alg s) := by
  unfold hashBlockBody
  split
  · exact CommandResult.of_complete s _ _ s.resultEq
  · exact .inr ⟨.length, 0, by decide, rfl⟩

theorem hashFinalBody_result (alg : Alg) (s : State) (h : s.dstFits) : CommandResult s (hashFinalBody alg s) :=
  CommandResult.of_emit s _ _ _ h

theorem hashBody_result (alg : Alg) (s : State) (h : s.dstFits) : CommandResult s (hashBody alg s) :=
  CommandResult.of_emit s _ _ _ h

theorem hmacBody_result (alg : Alg) (s : State) (h : s.dstFits) : CommandResult s (hmacBody alg s) :=
  CommandResult.of_emit s _ _ _ h

theorem ctCmpBody_result (s : State) : CommandResult s (ctCmpBody s) :=
  CommandResult.of_complete s s.chain s.msgBits s.ctEqual

/-- Every command answers a next state, of the shape CommandResult says. -/
theorem exec_result (i : Instr) (s : State) : ∃ t, exec i s = .next t ∧ CommandResult s t := by
  cases i
  case nop => exact ⟨_, rfl, .of_checked _ _ _ fun _ => .of_complete s s.chain s.msgBits s.resultEq⟩
  case hashInitSha256 => exact ⟨_, rfl, .of_checked _ _ _ fun _ => hashInitBody_result _ s⟩
  case hashInitSha1 => exact ⟨_, rfl, .of_checked _ _ _ fun _ => hashInitBody_result _ s⟩
  case hashInitMd5 => exact ⟨_, rfl, .of_checked _ _ _ fun _ => hashInitBody_result _ s⟩
  case hashBlockSha256 => exact ⟨_, rfl, .of_checked _ _ _ fun _ => hashBlockBody_result _ s⟩
  case hashBlockSha1 => exact ⟨_, rfl, .of_checked _ _ _ fun _ => hashBlockBody_result _ s⟩
  case hashBlockMd5 => exact ⟨_, rfl, .of_checked _ _ _ fun _ => hashBlockBody_result _ s⟩
  case ctCmp => exact ⟨_, rfl, .of_checked _ _ _ fun _ => ctCmpBody_result s⟩
  case hashFinalSha256 =>
    exact ⟨_, rfl, .of_checked _ _ _ fun h => hashFinalBody_result _ s (dstFits_of_operandsOk s _ (by decide) h)⟩
  case hashFinalSha1 =>
    exact ⟨_, rfl, .of_checked _ _ _ fun h => hashFinalBody_result _ s (dstFits_of_operandsOk s _ (by decide) h)⟩
  case hashFinalMd5 =>
    exact ⟨_, rfl, .of_checked _ _ _ fun h => hashFinalBody_result _ s (dstFits_of_operandsOk s _ (by decide) h)⟩
  case hashSha256 =>
    exact ⟨_, rfl, .of_checked _ _ _ fun h => hashBody_result _ s (dstFits_of_operandsOk s _ (by decide) h)⟩
  case hashSha1 =>
    exact ⟨_, rfl, .of_checked _ _ _ fun h => hashBody_result _ s (dstFits_of_operandsOk s _ (by decide) h)⟩
  case hashMd5 =>
    exact ⟨_, rfl, .of_checked _ _ _ fun h => hashBody_result _ s (dstFits_of_operandsOk s _ (by decide) h)⟩
  case hmacSha256 =>
    exact ⟨_, rfl, .of_checked _ _ _ fun h => hmacBody_result _ s (dstFits_of_operandsOk s _ (by decide) h)⟩
  case hmacSha1 =>
    exact ⟨_, rfl, .of_checked _ _ _ fun h => hmacBody_result _ s (dstFits_of_operandsOk s _ (by decide) h)⟩
  case hmacMd5 =>
    exact ⟨_, rfl, .of_checked _ _ _ fun h => hmacBody_result _ s (dstFits_of_operandsOk s _ (by decide) h)⟩
  case hexEnc =>
    exact ⟨_, rfl, .of_checked _ _ _ fun h => .of_emit_self s _ (dstFits_of_operandsOk s _ (by decide) h)⟩
  case hexEncSp =>
    exact ⟨_, rfl, .of_checked _ _ _ fun h => .of_emit_self s _ (dstFits_of_operandsOk s _ (by decide) h)⟩
  case hexDec =>
    exact ⟨_, rfl, .of_checked _ _ _ fun h => .of_emitDecoded s _ (dstFits_of_operandsOk s _ (by decide) h)⟩
  case b64Enc =>
    exact ⟨_, rfl, .of_checked _ _ _ fun h => .of_emit_self s _ (dstFits_of_operandsOk s _ (by decide) h)⟩
  case b64Dec =>
    exact ⟨_, rfl, .of_checked _ _ _ fun h => .of_emitDecoded s _ (dstFits_of_operandsOk s _ (by decide) h)⟩

end Sys2Proof.Machine
end

