-- ==== Sys2Proof/Laws/PerInstr.lean ====
section
/-! SUPPORT. The statements for all instructions, one lemma per constructor. -/

namespace Sys2Proof.Laws

open Sys2Proof

/-- The fields of a command are legal (30_encoding.md R96). -/
def WellFormedFields.Statement (i : Instr) : Prop := i.fields.wellFormed = true

theorem WellFormedFields.nop : WellFormedFields.Statement .nop := rfl

theorem WellFormedFields.hashInitSha256 : WellFormedFields.Statement .hashInitSha256 := rfl

theorem WellFormedFields.hashInitSha1 : WellFormedFields.Statement .hashInitSha1 := rfl

theorem WellFormedFields.hashInitMd5 : WellFormedFields.Statement .hashInitMd5 := rfl

theorem WellFormedFields.hashBlockSha256 : WellFormedFields.Statement .hashBlockSha256 := rfl

theorem WellFormedFields.hashBlockSha1 : WellFormedFields.Statement .hashBlockSha1 := rfl

theorem WellFormedFields.hashBlockMd5 : WellFormedFields.Statement .hashBlockMd5 := rfl

theorem WellFormedFields.hashFinalSha256 : WellFormedFields.Statement .hashFinalSha256 := rfl

theorem WellFormedFields.hashFinalSha1 : WellFormedFields.Statement .hashFinalSha1 := rfl

theorem WellFormedFields.hashFinalMd5 : WellFormedFields.Statement .hashFinalMd5 := rfl

theorem WellFormedFields.hashSha256 : WellFormedFields.Statement .hashSha256 := rfl

theorem WellFormedFields.hashSha1 : WellFormedFields.Statement .hashSha1 := rfl

theorem WellFormedFields.hashMd5 : WellFormedFields.Statement .hashMd5 := rfl

theorem WellFormedFields.hmacSha256 : WellFormedFields.Statement .hmacSha256 := rfl

theorem WellFormedFields.hmacSha1 : WellFormedFields.Statement .hmacSha1 := rfl

theorem WellFormedFields.hmacMd5 : WellFormedFields.Statement .hmacMd5 := rfl

theorem WellFormedFields.ctCmp : WellFormedFields.Statement .ctCmp := rfl

theorem WellFormedFields.hexEnc : WellFormedFields.Statement .hexEnc := rfl

theorem WellFormedFields.hexEncSp : WellFormedFields.Statement .hexEncSp := rfl

theorem WellFormedFields.hexDec : WellFormedFields.Statement .hexDec := rfl

theorem WellFormedFields.b64Enc : WellFormedFields.Statement .b64Enc := rfl

theorem WellFormedFields.b64Dec : WellFormedFields.Statement .b64Dec := rfl

end Sys2Proof.Laws
end

