-- ==== Sys2Proof/Laws/Step.lean ====
section
/-! SUPPORT. What one step can do, said once: the ENGINE step, a transaction, a host step, a transition. -/

namespace Sys2Proof.Machine

open Sys2Proof

/-- An ENGINE step answers a next state of the shape of a command's result. -/
theorem engineStep_result (s : State) : ∃ t, engineStep s = .next t ∧ CommandResult s t := by
  unfold engineStep
  split
  · exact exec_result _ s
  · exact ⟨_, rfl, .inr ⟨.illegal, 0, by decide, rfl⟩⟩

/-- Using up a turn changes `turns` only. -/
theorem State.takeTurn_cases (s : State) :
    (s.contested = true ∧ s.takeTurn = { s with turns := s.turns.tail }) ∨
    (s.contested = false ∧ s.takeTurn = s) := by
  unfold State.takeTurn
  cases h : s.contested
  · exact .inr ⟨rfl, by simp⟩
  · exact .inl ⟨rfl, by simp⟩

/-- A step is an ENGINE step of a pending command, a host step with an item left, or nothing. -/
theorem step_cases (s : State) :
    (s.busy = true ∧ step s = engineStep s.takeTurn) ∨
    (s.host ≠ [] ∧ step s = .next (hostStep s.takeTurn)) ∨
    (s.busy = false ∧ s.host = [] ∧ step s = .next s) := by
  have e : ∀ a, s.nextAgent = a → step s = match a with
      | some .engine => engineStep s.takeTurn
      | some .host => .next (hostStep s.takeTurn)
      | none => .next s := by
    intro a h
    subst h
    unfold step transition
    rcases s.nextAgent with _ | _ | _
    all_goals rfl
  unfold State.nextAgent State.contested at e
  cases hb : s.busy <;> cases hh : s.host <;> simp only [hb, hh] at e
  · exact .inr (.inr ⟨rfl, rfl, by simpa using e none rfl⟩)
  · exact .inr (.inl ⟨by simp, by simpa using e (some .host) rfl⟩)
  · exact .inl ⟨rfl, by simpa using e (some .engine) rfl⟩
  · cases ht : s.turns.headD .engine
    · exact .inr (.inl ⟨by simp, by simpa using e (some .host) (congrArg some ht)⟩)
    · exact .inl ⟨rfl, by simpa using e (some .engine) (congrArg some ht)⟩

/-- A register write is dropped with OVR while BUSY = 1 and performed while BUSY = 0, except that CTRL and STATUS always
act and a reserved offset does nothing while idle. -/
theorem State.writeOffset_cases (s : State) (off : Nat) (w : Word) :
    (s.busy = false ∧ ((∃ r, off = Reg.offset r ∧ s.writeOffset off w = s.writeRegIdle w r) ∨ s.writeOffset off w = s)) ∨
    (s.busy = true ∧ (s.writeOffset off w = s.setOvr ∨ s.writeOffset off w = s.statusWrite w ∨
      (off = 0x008 ∧ s.writeOffset off w = s.ctrlWrite w))) := by
  have hoff : ∀ r, regAt off = some r → off = Reg.offset r := fun r h => by
    have := List.find?_some h
    simpa [eq_comm] using this
  unfold State.writeOffset
  cases hb : s.busy <;> cases hr : regAt off with
  | none => simp
  | some r => ?_
  · exact .inl ⟨rfl, .inl ⟨r, hoff r hr, rfl⟩⟩
  · refine .inr ⟨rfl, ?_⟩
    have ho := hoff r hr
    cases r
    case ctrl => exact .inr (.inr ⟨ho, rfl⟩)
    case status => exact .inr (.inl rfl)
    all_goals exact .inl rfl

/-- What a transaction can do to the state: nothing, OVR, a draw, a register write, or bytes written inside BUF. -/
theorem State.transact_cases (s : State) (x : Txn) :
    (s.transact x).1 = s ∨ (s.busy = true ∧ (s.transact x).1 = s.setOvr) ∨
    (s.busy = true ∧ (s.transact x).1 = s.drawRead) ∨
    (∃ a w, x = .wr32 a w ∧ a.toNat < 0x100 ∧ (s.transact x).1 = s.writeOffset a.toNat w) ∨
    (s.busy = false ∧ ∃ i bs, i < s.bufSize ∧ (bs.length = 1 ∨ bs.length = 4 ∧ i % 4 = 0) ∧
      (s.transact x).1 = { s with buf := s.buf.writeBytes i bs }) := by
  cases x with
  | rd8 a =>
    simp only [State.transact]
    split
    · rcases s.region_cases a with ⟨_, e⟩ | ⟨_, e⟩ | ⟨_, _, e⟩ <;> simp only [State.read8, e, true_or]
      cases hb : s.busy <;> simp [State.readBuf8, hb]
    · exact .inl rfl
  | rd32 a =>
    simp only [State.transact]
    split
    · rcases s.region_cases a with ⟨_, e⟩ | ⟨_, e⟩ | ⟨_, _, e⟩ <;> simp only [State.read32, e, true_or]
      cases hb : s.busy <;> simp [State.readBuf32, hb]
    · exact .inl rfl
  | wr8 a d =>
    simp only [State.transact]
    split
    · rcases s.region_cases a with ⟨_, e⟩ | ⟨_, e⟩ | ⟨_, hi, e⟩ <;> simp only [State.write8, e, true_or]
      cases hb : s.busy
      · refine .inr (.inr (.inr (.inr ⟨rfl, a.toNat - 0x8000, [d], by omega, .inl rfl, ?_⟩)))
        simp [State.writeBuf, hb]
      · exact .inr (.inl ⟨rfl, by simp [State.writeBuf, hb]⟩)
    · exact .inl rfl
  | wr32 a d =>
    simp only [State.transact, busAccepts_32]
    split
    · rename_i ha
      simp only [decide_eq_true_eq] at ha
      rcases s.region_cases a with ⟨hl, e⟩ | ⟨_, e⟩ | ⟨_, hi, e⟩ <;> simp only [State.write32, e, true_or]
      · exact .inr (.inr (.inr (.inl ⟨a, d, rfl, hl, rfl⟩)))
      · cases hb : s.busy
        · refine .inr (.inr (.inr (.inr ⟨rfl, a.toNat - 0x8000, le32 d, by omega, .inr ⟨rfl, by omega⟩, ?_⟩)))
          simp [State.writeBuf, hb]
        · exact .inr (.inl ⟨rfl, by simp [State.writeBuf, hb]⟩)
    · exact .inl rfl

/-- A host step issues a transaction, or one read of STATUS for WAIT, or does nothing. -/
theorem hostStep_cases (s : State) :
    (s.host = [] ∧ hostStep s = s) ∨
    (∃ x rest, s.host = .txn x :: rest ∧ hostStep s = State.issue { s with host := rest } x) ∨
    (∃ rest, s.host = .wait :: rest ∧ hostStep s = { s with
      host := if s.statusWord.getLsbD 0 then s.host else rest, replies := .okayRead32 s.statusWord :: s.replies }) := by
  cases h : s.host with
  | nil => exact .inl ⟨rfl, by simp [hostStep, h]⟩
  | cons y rest =>
    cases y with
    | txn x => exact .inr (.inl ⟨x, rest, rfl, by simp only [hostStep, h]⟩)
    | wait =>
      refine .inr (.inr ⟨rest, rfl, ?_⟩)
      simp only [hostStep, h, State.issue, show statusAddr = regAddr .status from rfl, transact_rd32_reg]
      rfl

end Sys2Proof.Machine
end

