-- ==== Sys2Proof/Laws/Words.lean ====
section
/-! SUPPORT. Words: the halves of MSGBITS and the four bytes of a word. -/

namespace Sys2Proof.Machine

open Sys2Proof

theorem append_toNat (x w : Word) : (x ++ w : BitVec 64).toNat = x.toNat * 2 ^ 32 + w.toNat := by
  have e : (x ++ w : BitVec 64).toNat = x.toNat <<< 32 ||| w.toNat := BitVec.toNat_append x w
  rw [e, ← Nat.shiftLeft_add_eq_or_of_lt w.isLt, Nat.shiftLeft_eq]

theorem append_lo (x w : Word) : BitVec.extractLsb' 0 32 (x ++ w : BitVec 64) = w := by
  apply BitVec.eq_of_toNat_eq
  have := w.isLt
  rw [BitVec.extractLsb'_toNat, append_toNat, Nat.shiftRight_zero]; omega

theorem append_hi (x w : Word) : BitVec.extractLsb' 32 32 (x ++ w : BitVec 64) = x := by
  apply BitVec.eq_of_toNat_eq
  have := w.isLt; have := x.isLt
  rw [BitVec.extractLsb'_toNat, append_toNat, Nat.shiftRight_eq_div_pow]; omega

theorem ofLE_toNat (a b c d : Byte) :
    (ofLE a b c d).toNat = a.toNat + 2 ^ 8 * b.toNat + 2 ^ 16 * c.toNat + 2 ^ 24 * d.toNat := by
  have := a.isLt; have := b.isLt; have := c.isLt; have := d.isLt
  simp only [ofLE, ofBE, BitVec.toNat_append]
  rw [← Nat.shiftLeft_add_eq_or_of_lt (by omega), ← Nat.shiftLeft_add_eq_or_of_lt (by omega),
    ← Nat.shiftLeft_add_eq_or_of_lt (by omega)]
  simp only [Nat.shiftLeft_eq]; omega

/-- The four bytes of a word in little-endian order make the word. -/
theorem ofLE_bytes (w : Word) :
    ofLE (w.extractLsb' 0 8) (w.extractLsb' 8 8) (w.extractLsb' 16 8) (w.extractLsb' 24 8) = w := by
  apply BitVec.eq_of_toNat_eq
  rw [ofLE_toNat]
  have := w.isLt
  simp only [BitVec.extractLsb'_toNat, Nat.shiftRight_eq_div_pow]; omega

end Sys2Proof.Machine
end

