-- ==== Sys2Proof/Tests/Slice0.lean ====
section
/-! SUPPORT. Tests: well-formedness, words written out from the spec's encodings, the vectors of 95_test_vectors.md (their
names stand in the comments), and a witness for the hypotheses of every obligation that has some. -/

namespace Sys2Proof.Tests

-- One theorem after the other: evaluated at the same time they need more threads than the memory limit allows.
set_option Elab.async false

open Sys2Proof Sys2Proof.Machine

/-! ### Well-formedness: each check refuses an ill-formed term -/

theorem test_wf_accepts : (CmdFields.mk 0x04 2 false 0).wellFormed = true := by decide
theorem test_wf_reserved_bit : (CmdFields.mk 0x04 0 false 1).wellFormed = false := by decide
theorem test_wf_unassigned_op : (CmdFields.mk 0x07 0 false 0).wellFormed = false := by decide
theorem test_wf_reserved_alg : (CmdFields.mk 0x01 3 false 0).wellFormed = false := by decide
theorem test_wf_alg_not_used : (CmdFields.mk 0x06 1 false 0).wellFormed = false := by decide
theorem test_wf_sp_not_used : (CmdFields.mk 0x11 0 true 0).wellFormed = false := by decide
theorem test_wf_txn_accepts : (Txn.rd8 0x0100).wellFormed = true ∧ (Txn.wr32 0x00FC 0).wellFormed = true := by decide
theorem test_wf_rd8_register : (Txn.rd8 0x00FF).wellFormed = false := by decide
theorem test_wf_wr8_register : (Txn.wr8 0x0010 0).wellFormed = false := by decide
theorem test_wf_rd32_misaligned : (Txn.rd32 0x0002).wellFormed = false := by decide
theorem test_wf_wr32_misaligned : (Txn.wr32 0x8001 0).wellFormed = false := by decide

/-! ### Decoding: every command from its bits, reserved 31:11, SP 10, ALG 9:8, OP 7:0 (30_encoding.md R90, R95) -/

theorem test_decode_nop : decode 0b00000000000000000000000000000000 = .instr .nop := by decide
theorem test_decode_hashInitSha256 : decode 0b00000000000000000000000000000001 = .instr .hashInitSha256 := by decide
theorem test_decode_hashInitSha1 : decode 0b00000000000000000000000100000001 = .instr .hashInitSha1 := by decide
theorem test_decode_hashInitMd5 : decode 0b00000000000000000000001000000001 = .instr .hashInitMd5 := by decide
theorem test_decode_hashBlockSha256 : decode 0b00000000000000000000000000000010 = .instr .hashBlockSha256 := by decide
theorem test_decode_hashBlockSha1 : decode 0b00000000000000000000000100000010 = .instr .hashBlockSha1 := by decide
theorem test_decode_hashBlockMd5 : decode 0b00000000000000000000001000000010 = .instr .hashBlockMd5 := by decide
theorem test_decode_hashFinalSha256 : decode 0b00000000000000000000000000000011 = .instr .hashFinalSha256 := by decide
theorem test_decode_hashFinalSha1 : decode 0b00000000000000000000000100000011 = .instr .hashFinalSha1 := by decide
theorem test_decode_hashFinalMd5 : decode 0b00000000000000000000001000000011 = .instr .hashFinalMd5 := by decide
theorem test_decode_hashSha256 : decode 0b00000000000000000000000000000100 = .instr .hashSha256 := by decide
theorem test_decode_hashSha1 : decode 0b00000000000000000000000100000100 = .instr .hashSha1 := by decide
theorem test_decode_hashMd5 : decode 0b00000000000000000000001000000100 = .instr .hashMd5 := by decide
theorem test_decode_hmacSha256 : decode 0b00000000000000000000000000000101 = .instr .hmacSha256 := by decide
theorem test_decode_hmacSha1 : decode 0b00000000000000000000000100000101 = .instr .hmacSha1 := by decide
theorem test_decode_hmacMd5 : decode 0b00000000000000000000001000000101 = .instr .hmacMd5 := by decide
theorem test_decode_ctCmp : decode 0b00000000000000000000000000000110 = .instr .ctCmp := by decide
theorem test_decode_hexEnc : decode 0b00000000000000000000000000010000 = .instr .hexEnc := by decide
theorem test_decode_hexEncSp : decode 0b00000000000000000000010000010000 = .instr .hexEncSp := by decide
theorem test_decode_hexDec : decode 0b00000000000000000000000000010001 = .instr .hexDec := by decide
theorem test_decode_b64Enc : decode 0b00000000000000000000000000010010 = .instr .b64Enc := by decide
theorem test_decode_b64Dec : decode 0b00000000000000000000000000010011 = .instr .b64Dec := by decide

/-- V-C2 to V-C9: the illegal words, each by the reason it is refused for. -/
theorem test_decode_refuses :
    decode 0x00000007 = .illegal .unassignedOp ∧ decode 0x00000301 = .illegal .reservedAlg ∧
    decode 0x00000106 = .illegal .algNotUsed ∧ decode 0x00000411 = .illegal .spNotUsed ∧
    decode 0x00000404 = .illegal .spNotUsed ∧ decode 0x00000800 = .illegal .reservedBits ∧
    decode 0x80000004 = .illegal .reservedBits ∧ decode 0x00000100 = .illegal .algNotUsed := by decide

/-- The host's reading of a table word agrees with the decoder's. -/
theorem test_decodeTableWord :
    decodeTableWord 32 0x00000205 = some .hmacMd5 ∧ decodeTableWord 32 0x00000301 = none ∧
    decodeTableWord 64 0x0000000100000004 = none := by decide

/-! ### Vectors: one command on a small state -/

/-- What a test reads of an outcome: the code, OUT_LEN and the output at BUF[512]. -/
def shown : Host.Outcome State Fault Refusal → Option (ErrCode × Nat × Bytes)
  | .next t => some (t.errCode, t.outLen.toNat, t.buf.readBytes 512 t.outLen.toNat)
  | _ => none

/-- What a test reads of an outcome: STATE, MSGBITS and the code. -/
def shownChain : Host.Outcome State Fault Refusal → Option (Chain × BitVec 64 × ErrCode)
  | .next t => some (t.chain, t.msgBits, t.errCode)
  | _ => none

/-- What a test reads of an outcome: RESULT.EQ and the code. -/
def shownEq : Host.Outcome State Fault Refusal → Option (Bool × ErrCode)
  | .next t => some (t.resultEq, t.errCode)
  | _ => none

/-- BUF cells from an index on. -/
def cellsFrom : Nat → Bytes → Memory
  | _, [] => []
  | a, b :: bs => (a, b) :: cellsFrom (a + 1) bs

/-- A test state: the first source at BUF[0], the second at BUF[256], the destination at BUF[512]. -/
def place (a b : Bytes) (cap : Word) : State :=
  { State.reset with
    buf := cellsFrom 0 a ++ cellsFrom 256 b
    src0Len := BitVec.ofNat 32 a.length, src1Addr := 256, src1Len := BitVec.ofNat 32 b.length
    dstAddr := 512, dstCap := cap }

/-- V-C1 -/
theorem test_nop :
    shown (exec .nop (place [0x61] [] 0)) = some (.ok, 0, []) := by decide +kernel

/-- V-D16 -/
theorem test_hashInit_sha256 :
    shownChain (exec .hashInitSha256 State.reset) =
      some (⟨0x6A09E667, 0xBB67AE85, 0x3C6EF372, 0xA54FF53A, 0x510E527F, 0x9B05688C, 0x1F83D9AB, 0x5BE0CD19⟩, 0, .ok) := by decide +kernel

/-- V-D17 -/
theorem test_hashInit_sha1 :
    shownChain (exec .hashInitSha1 State.reset) =
      some (⟨0x67452301, 0xEFCDAB89, 0x98BADCFE, 0x10325476, 0xC3D2E1F0, 0, 0, 0⟩, 0, .ok) := by decide +kernel

/-- V-D18 -/
theorem test_hashInit_md5 :
    shownChain (exec .hashInitMd5 State.reset) =
      some (⟨0x67452301, 0xEFCDAB89, 0x98BADCFE, 0x10325476, 0, 0, 0, 0⟩, 0, .ok) := by decide +kernel

/-- V-D19 -/
theorem test_hashBlock_sha256 :
    shownChain (exec .hashBlockSha256 (place (zeros 64) [] 0)) =
      some (⟨0x7CA51614, 0x425C3BA8, 0xCE54DD2F, 0xC2020AE7, 0xB6E574D1, 0x98136D0F, 0xAE7E26CC, 0xBF0BE7A6⟩, 512, .ok) := by decide +kernel

/-- V-D22: words 5 to 7 stay -/
theorem test_hashBlock_sha1 :
    shownChain (exec .hashBlockSha1 { place (List.replicate 64 0x61) [] 0 with
      chain := ⟨0x67452301, 0xEFCDAB89, 0x98BADCFE, 0x10325476, 0xC3D2E1F0, 0x11111111, 0x22222222, 0x33333333⟩ }) =
      some (⟨0xDA4968EB, 0x2E377C1F, 0x884E8F52, 0x83524BEB, 0xE74EBDBD, 0x11111111, 0x22222222, 0x33333333⟩, 512, .ok) := by decide +kernel

/-- V-D21 -/
theorem test_hashBlock_md5 :
    shownChain (exec .hashBlockMd5 (place (zeros 64) [] 0)) =
      some (⟨0xF7CD1C97, 0xA5483681, 0x2B68D832, 0xF90CA639, 0, 0, 0, 0⟩, 512, .ok) := by decide +kernel

/-- V-D26 -/
theorem test_hashBlock_length :
    shownChain (exec .hashBlockSha256 (place (zeros 63) [] 0)) = some (Chain.zero, 0, .length) := by decide +kernel

/-- V-D24: on the chaining value of V-D23 -/
theorem test_hashFinal_sha256 :
    shown (exec .hashFinalSha256 { place [0x62, 0x63] [] 32 with
      msgBits := 512
      chain := ⟨0xDF5BB81C, 0xE81E0626, 0xFB45A894, 0x4FD40F31, 0xB25E6816, 0xD6D499C1, 0xAB904929, 0x00635E66⟩ }) =
      some (.ok, 32, [0x2e, 0xac, 0x2a, 0xb1, 0x3a, 0x13, 0xbd, 0x7e, 0xb0, 0x77, 0x1c, 0xe0, 0x64, 0x7c, 0x9c, 0xdd, 0xdb, 0x62, 0xd4, 0xa1, 0xbe, 0xbd, 0xd1, 0x82, 0x97, 0x80, 0x81, 0x09, 0x62, 0x28, 0x0a, 0x84]) := by decide +kernel

/-- V-D8 with R245: HASH_FINAL right after HASH_INIT is the one-shot hash -/
theorem test_hashFinal_sha1 :
    shown (exec .hashFinalSha1 { place [0x61, 0x62, 0x63] [] 20 with chain := ⟨0x67452301, 0xEFCDAB89, 0x98BADCFE, 0x10325476, 0xC3D2E1F0, 0, 0, 0⟩ }) =
      some (.ok, 20, [0xa9, 0x99, 0x3e, 0x36, 0x47, 0x06, 0x81, 0x6a, 0xba, 0x3e, 0x25, 0x71, 0x78, 0x50, 0xc2, 0x6c, 0x9c, 0xd0, 0xd8, 0x9d]) := by decide +kernel

/-- V-D10 with R245: HASH_FINAL right after HASH_INIT is the one-shot hash -/
theorem test_hashFinal_md5 :
    shown (exec .hashFinalMd5 { place [0x61, 0x62, 0x63] [] 16 with chain := ⟨0x67452301, 0xEFCDAB89, 0x98BADCFE, 0x10325476, 0, 0, 0, 0⟩ }) =
      some (.ok, 16, [0x90, 0x01, 0x50, 0x98, 0x3c, 0xd2, 0x4f, 0xb0, 0xd6, 0x96, 0x3f, 0x7d, 0x28, 0xe1, 0x7f, 0x72]) := by decide +kernel

/-- V-D2 -/
theorem test_hash_sha256 :
    shown (exec .hashSha256 (place [0x61, 0x62, 0x63] [] 32)) =
      some (.ok, 32, [0xba, 0x78, 0x16, 0xbf, 0x8f, 0x01, 0xcf, 0xea, 0x41, 0x41, 0x40, 0xde, 0x5d, 0xae, 0x22, 0x23, 0xb0, 0x03, 0x61, 0xa3, 0x96, 0x17, 0x7a, 0x9c, 0xb4, 0x10, 0xff, 0x61, 0xf2, 0x00, 0x15, 0xad]) := by decide +kernel

/-- V-D6b: 56 bytes take two padding blocks -/
theorem test_hash_sha256_two_blocks :
    shown (exec .hashSha256 (place (List.replicate 56 0x61) [] 32)) =
      some (.ok, 32, [0xb3, 0x54, 0x39, 0xa4, 0xac, 0x6f, 0x09, 0x48, 0xb6, 0xd6, 0xf9, 0xe3, 0xc6, 0xaf, 0x0f, 0x5f, 0x59, 0x0c, 0xe2, 0x0f, 0x1b, 0xde, 0x70, 0x90, 0xef, 0x79, 0x70, 0x68, 0x6e, 0xc6, 0x73, 0x8a]) := by decide +kernel

/-- V-D7 -/
theorem test_hash_sha1 :
    shown (exec .hashSha1 (place [] [] 20)) =
      some (.ok, 20, [0xda, 0x39, 0xa3, 0xee, 0x5e, 0x6b, 0x4b, 0x0d, 0x32, 0x55, 0xbf, 0xef, 0x95, 0x60, 0x18, 0x90, 0xaf, 0xd8, 0x07, 0x09]) := by decide +kernel

/-- V-D11: 64 bytes, an extra padding block -/
theorem test_hash_md5 :
    shown (exec .hashMd5 (place (List.replicate 64 0x61) [] 16)) =
      some (.ok, 16, [0x01, 0x48, 0x42, 0xd4, 0x80, 0xb5, 0x71, 0x49, 0x5a, 0x4a, 0x03, 0x63, 0x79, 0x3f, 0x73, 0x67]) := by decide +kernel

/-- V-M5 -/
theorem test_hmac_sha256 :
    shown (exec .hmacSha256 (place [] [] 32)) =
      some (.ok, 32, [0xb6, 0x13, 0x67, 0x9a, 0x08, 0x14, 0xd9, 0xec, 0x77, 0x2f, 0x95, 0xd7, 0x78, 0xc3, 0x5f, 0xc5, 0xff, 0x16, 0x97, 0xc4, 0x93, 0x71, 0x56, 0x53, 0xc6, 0xc7, 0x12, 0x14, 0x42, 0x92, 0xc5, 0xad]) := by decide +kernel

/-- V-M7: a key of 65 bytes is hashed first -/
theorem test_hmac_sha256_long_key :
    shown (exec .hmacSha256 (place ((List.range 65).map (BitVec.ofNat 8)) [0x61, 0x62, 0x63] 32)) =
      some (.ok, 32, [0xdf, 0xbf, 0xfe, 0xe4, 0x67, 0x1b, 0xad, 0x00, 0xed, 0x5d, 0x1e, 0x19, 0x99, 0xd5, 0x5e, 0xd3, 0xb0, 0xcc, 0x77, 0x4a, 0xc3, 0x57, 0xf9, 0xeb, 0xf6, 0x49, 0xc1, 0x61, 0x24, 0x14, 0xfc, 0xec]) := by decide +kernel

/-- V-M5b -/
theorem test_hmac_sha1 :
    shown (exec .hmacSha1 (place [] [] 20)) =
      some (.ok, 20, [0xfb, 0xdb, 0x1d, 0x1b, 0x18, 0xaa, 0x6c, 0x08, 0x32, 0x4b, 0x7d, 0x64, 0xb7, 0x1f, 0xb7, 0x63, 0x70, 0x69, 0x0e, 0x1d]) := by decide +kernel

/-- V-M5c -/
theorem test_hmac_md5 :
    shown (exec .hmacMd5 (place [] [] 16)) =
      some (.ok, 16, [0x74, 0xe6, 0xf7, 0x29, 0x8a, 0x9c, 0x2d, 0x16, 0x89, 0x35, 0xf5, 0x8c, 0x00, 0x1b, 0xad, 0x88]) := by decide +kernel

/-- V-K3: an XOR of everything would say equal -/
theorem test_ctCmp_order :
    shownEq (exec .ctCmp (place [0x61, 0x62] [0x62, 0x61] 0)) = some (false, .ok) := by decide +kernel

/-- V-K1 -/
theorem test_ctCmp_equal :
    shownEq (exec .ctCmp (place [0x73, 0x69, 0x67] [0x73, 0x69, 0x67] 0)) = some (true, .ok) := by decide +kernel

/-- V-H1 -/
theorem test_hexEnc :
    shown (exec .hexEnc (place [0x00, 0xab, 0xff] [] 6)) =
      some (.ok, 6, [0x30, 0x30, 0x61, 0x62, 0x66, 0x66]) := by decide +kernel

/-- V-H2 -/
theorem test_hexEncSp :
    shown (exec .hexEncSp (place [0x00, 0xab, 0xff] [] 8)) =
      some (.ok, 8, [0x30, 0x30, 0x20, 0x61, 0x62, 0x20, 0x66, 0x66]) := by decide +kernel

/-- V-H6 -/
theorem test_hexDec :
    shown (exec .hexDec (place [0x30, 0x30, 0x41, 0x42, 0x66, 0x66] [] 3)) =
      some (.ok, 3, [0x00, 0xab, 0xff]) := by decide +kernel

/-- V-H11 -/
theorem test_hexDec_spaced :
    shown (exec .hexDec (place [0x30, 0x30, 0x20, 0x61, 0x62, 0x20, 0x66, 0x66] [] 3)) =
      some (.decode, 0, []) := by decide +kernel

/-- V-B8 -/
theorem test_b64Enc :
    shown (exec .b64Enc (place [0xfb, 0xff] [] 4)) =
      some (.ok, 4, [0x2b, 0x2f, 0x38, 0x3d]) := by decide +kernel

/-- V-B5 -/
theorem test_b64Enc_quartets :
    shown (exec .b64Enc (place [0x66, 0x6f, 0x6f, 0x62] [] 8)) =
      some (.ok, 8, [0x5a, 0x6d, 0x39, 0x76, 0x59, 0x67, 0x3d, 0x3d]) := by decide +kernel

/-- V-B13 -/
theorem test_b64Dec :
    shown (exec .b64Dec (place [0x5a, 0x6d, 0x38, 0x3d] [] 2)) =
      some (.ok, 2, [0x66, 0x6f]) := by decide +kernel

/-- V-B17 -/
theorem test_b64Dec_trailing_bits :
    shown (exec .b64Dec (place [0x5a, 0x6d, 0x39, 0x3d] [] 2)) =
      some (.decode, 0, []) := by decide +kernel

/-- V-C14 and V-C13: SRC0 first, then the destination's whole capacity -/
theorem test_range_before_output :
    shown (exec .hashSha256 { place [] [] 0 with src0Addr := 4095, src0Len := 2, dstAddr := 0 }) = some (.range, 0, []) ∧
    shown (exec .hashSha256 { place [] [] 32 with dstAddr := 4090 }) = some (.range, 0, []) := by decide +kernel

/-! ### Bus -/

/-- V-R1 -/
theorem test_power_on_reads :
    State.reset.transact (.rd32 0x0000) = (State.reset, .okayRead32 0x4E484231) ∧
    State.reset.transact (.rd32 0x0004) = (State.reset, .okayRead32 0x00001000) ∧
    State.reset.transact (.rd32 0x000C) = (State.reset, .okayRead32 0) := by decide +kernel

/-- V-R2, V-R3, V-R5 -/
theorem test_bus_errors_and_reserved :
    State.reset.transact (.rd8 0x0000) = (State.reset, .busErr) ∧
    State.reset.transact (.rd32 0x0002) = (State.reset, .busErr) ∧
    State.reset.transact (.rd32 0x0100) = (State.reset, .okayRead32 0) ∧
    State.reset.transact (.rd32 0x9000) = (State.reset, .okayRead32 0) := by decide +kernel

/-- V-R4: the low byte of a word lies at the lowest address. -/
theorem test_window_lanes :
    let t := (State.reset.transact (.wr32 0x8040 0x11223344)).1
    (t.transact (.rd8 0x8040)).2 = .okayRead8 0x44 ∧ (t.transact (.rd8 0x8043)).2 = .okayRead8 0x11 := by decide +kernel

/-- V-R9: a register write while BUSY = 1 is dropped and sets OVR. -/
theorem test_write_while_busy :
    (State.transact { State.reset with busy := true } (.wr32 0x0018 5)).1 =
      { State.reset with busy := true, ovr := true } := by decide +kernel

/-- V-R11: the acknowledge keeps ERR and ERRCODE. -/
theorem test_acknowledge_keeps_code :
    (State.transact { State.reset with done := true, errCode := .decode } (.wr32 0x000C 2)).1.statusWord =
      0x00000404 := by decide +kernel

/-- V-C2: an illegal word completes with ILLEGAL; STATUS reads 0x106. -/
theorem test_illegal_completes :
    (match step (State.reset.withFetchWord 32 0x00000007) with
      | .next t => t.statusWord
      | _ => 0) = 0x00000106 := by decide +kernel

/-- The machine runs the fetched word as its very next step: HASH_INIT.MD5. -/
theorem test_step_runs_fetched_word :
    (match step (State.reset.withFetchWord 32 0x00000201) with
      | .next t => (t.chain.s0, t.statusWord)
      | _ => (0, 0)) = (0x67452301, 0x00000002) := by decide +kernel

/-- Every command runs as the first one after reset. -/
theorem test_every_word_completes :
    (allInstrs.all fun i => match step (State.reset.withFetchWord 32 (encode i).toNat) with
      | .next t => t.done && !t.busy
      | _ => false) = true := by decide +kernel

/-- The mnemonics assemble to their commands. -/
theorem test_assemble : assemble "HEX_ENC.SP" = some .hexEncSp ∧ assemble "HASH" = none := by decide +kernel

/-! ### Witnesses: a state and operands that meet each obligation's hypotheses, clause by clause, at boundary values -/

/-- The state of an outcome, for the tests. -/
def after : Host.Outcome State Fault Refusal → State
  | .next t => t
  | _ => State.reset

/-- A reset state with a word pending. -/
def pending (w : Word) (host : List HostItem) (turns : List Agent) : State :=
  { State.reset with cmd := w, busy := true, host := host, turns := turns }

theorem witness_IllegalWordsCompleteIllegal :
    State.reset.busy = false ∧ BitVec.extractLsb' 11 21 (0x00000800 : Word) ≠ 0 := by decide

theorem witness_StepRunsDecodedCommand :
    let s := pending 0 [] []
    let u := pending 0x00000013 [.wait] []
    let v := pending 0x00000410 [.wait] [.engine, .host]
    (s.busy = true ∧ decode s.cmd = .instr .nop ∧ s.host = []) ∧
    (u.busy = true ∧ decode u.cmd = .instr .b64Dec ∧ u.host ≠ [] ∧ u.turns.headD .engine = .engine) ∧
    (v.busy = true ∧ decode v.cmd = .instr .hexEncSp ∧ v.host ≠ [] ∧ v.turns.headD .engine = .engine) := by decide

theorem witness_InvariantKeptByEveryStep :
    let s := pending 0x00000001 [] []
    s.Inv ∧ step s = .next (after (step s)) := ⟨by decide, rfl⟩

theorem witness_IdlenessChangesNothing : State.reset.busy = false ∧ State.reset.host = [] := by decide

theorem witness_CmdWriteRacesTheCompletion :
    let s := pending 0x00000006 [.txn (.wr32 0x0010 4), .wait] [.host]
    let u := pending 0x00000006 [.txn (.wr32 0x0010 4), .wait] []
    (s.busy = true ∧ decode s.cmd = .instr .ctCmp ∧ s.host = .txn (.wr32 0x0010 4) :: [.wait] ∧ s.turns = .host :: []) ∧
    (u.busy = true ∧ decode u.cmd = .instr .ctCmp ∧ u.host = .txn (.wr32 0x0010 4) :: [.wait] ∧
      u.turns.headD .engine = .engine) := by decide

theorem witness_WaitPollsStatus : (pending 0 [.wait, .wait] []).host = .wait :: [.wait] := rfl

theorem witness_FailedCommandChangesNothingElse :
    let s := place [0x61] [] 31
    let t := after (exec .hashBlockSha256 s)
    let u := after (exec .hashFinalSha256 s)
    (exec .hashBlockSha256 s = .next t ∧ t.errCode ≠ .ok ∧ t.errCode ≠ .dstOvf) ∧
      (exec .hashFinalSha256 s = .next u ∧ u.errCode = .dstOvf) :=
  ⟨⟨rfl, by decide +kernel, by decide +kernel⟩, rfl, by decide +kernel⟩

theorem witness_BufWrittenOnlyInsideDestination :
    let s := place [0x61] [] 2
    let t := after (exec .hexEnc s)
    let u := after (exec .hashBlockMd5 s)
    (exec .hexEnc s = .next t ∧ 511 < s.dstAddr.toNat ∧ s.dstAddr.toNat + t.outLen.toNat ≤ 514) ∧
      (exec .hashBlockMd5 s = .next u ∧ u.errCode ≠ .ok ∧ writesDst .hashBlockMd5 = false) :=
  ⟨⟨rfl, by decide, by decide +kernel⟩, rfl, by decide +kernel, by decide⟩

theorem witness_ErrorCodesPerCommand :
    (after (exec .hashBlockSha1 (place [0x61] [] 0))).errCode = .length ∧
    (after (exec .hexDec (place [0x61] [] 0))).errCode = .decode ∧
    (after (exec .hexEnc (place [0x61] [] 1))).errCode = .dstOvf ∧
    (after (exec .ctCmp (place [] (zeros 1) 0 |> fun s => { s with src1Addr := 4096 }))).errCode = .range := by
  decide +kernel

/-- The sum of address and length is exactly BUF_SIZE, and one more, for each of the three operands. -/
theorem witness_RangeErrorExactly :
    let s := place [] [] 0
    (after (exec .hmacMd5 { s with src0Addr := 4095, src0Len := 1 })).errCode = .dstOvf ∧
    (after (exec .hmacMd5 { s with src0Addr := 4096, src0Len := 1 })).errCode = .range ∧
    (after (exec .ctCmp { s with src1Addr := 4096, src1Len := 0 })).errCode = .ok ∧
    (after (exec .ctCmp { s with src1Addr := 4097, src1Len := 0 })).errCode = .range ∧
    (after (exec .hexEnc { s with dstAddr := 4095, dstCap := 1 })).errCode = .ok ∧
    (after (exec .hexEnc { s with dstAddr := 4095, dstCap := 2 })).errCode = .range ∧
    (after (exec .nop { s with src0Addr := 0xFFFFFFFF, src0Len := 0xFFFFFFFF })).errCode = .ok := by decide +kernel

theorem witness_DigestOverflowRecordsNeededLength :
    let s := place [] [] 31
    let u := place [] [] 15
    (Instr.hashFinalSha256 = hashFinalOf .sha256 ∧ s.src0Fits ∧ s.dstFits ∧ s.dstCap.toNat < digestLen .sha256) ∧
    (Instr.hmacMd5 = hmacOf .md5 ∧ u.src0Fits ∧ u.dstFits ∧ u.src1Fits ∧ u.dstCap.toNat < digestLen .md5) := by decide

/-- Two different states with the same inputs. -/
theorem witness_CommandsDependOnInputsOnly :
    let s := place [0x61] [0x61] 2
    let s' := { s with irqEn := true, ovr := true, resultEq := true, outLen := 7 }
    SameInputs s s' ∧ exec .ctCmp s = .next (after (exec .ctCmp s)) ∧
      exec .ctCmp s' = .next (after (exec .ctCmp s')) ∧ (after (exec .ctCmp s)).errCode = .ok :=
  ⟨⟨rfl, rfl, rfl, rfl, rfl, rfl, rfl, rfl, rfl, rfl⟩, rfl, rfl, by decide +kernel⟩

/-- No block, and one block that ends where BUF ends. -/
theorem witness_HashBlockCompresses :
    let s := place [] [] 0
    let u := { s with src0Addr := 4032, src0Len := 64 }
    (s.src0Fits ∧ s.src0Len.toNat = 64 * 0) ∧ (u.src0Fits ∧ u.src0Len.toNat = 64 * 1) := by decide

theorem witness_HashBlockCompresses_errors :
    let s := { State.reset with src0Len := 63 }
    let u := { State.reset with src0Len := 65 }
    let v := { State.reset with src0Addr := 4096, src0Len := 64 }
    (s.src0Fits ∧ s.src0Len.toNat % 64 ≠ 0) ∧ (u.src0Fits ∧ u.src0Len.toNat % 64 ≠ 0) ∧ ¬ v.src0Fits := by decide

theorem witness_BlockCompressorIdentity :
    let s := { State.reset with src0Addr := 4032, src0Len := 64 }
    s.src0Fits ∧ s.src0Len = 64 := by decide

/-- The capacity is exactly the digest length: for HASH_FINAL, HASH and, with its key and message, HMAC. -/
theorem witness_HashFinalCompletes :
    let s := place [0x61] [] 32
    s.src0Fits ∧ s.dstFits ∧ digestLen .sha256 ≤ s.dstCap.toNat := by decide

theorem witness_HashCompletes :
    let s := place [] [] 20
    s.src0Fits ∧ s.dstFits ∧ digestLen .sha1 ≤ s.dstCap.toNat := by decide

theorem witness_HmacCompletes :
    let s := place (zeros 65) [0x61] 16
    s.src0Fits ∧ s.src1Fits ∧ s.dstFits ∧ digestLen .md5 ≤ s.dstCap.toNat := by decide

theorem witness_HashIsInitThenFinal :
    let s := place [0x61] [] 20
    let t := after (exec (hashOf .sha1) s)
    let u := after (exec (hashInitOf .sha1) s)
    exec (hashOf .sha1) s = .next t ∧ t.errCode = .ok ∧ exec (hashInitOf .sha1) s = .next u ∧
      exec (hashFinalOf .sha1) u = .next (after (exec (hashFinalOf .sha1) u)) :=
  ⟨rfl, by decide +kernel, rfl, rfl⟩

/-- A stream of one block and an empty tail, after which HASH_FINAL completes. -/
theorem witness_StreamingEqualsOneShot :
    let a := place (zeros 64) [] 16
    let b := after (exec (hashInitOf .md5) a)
    let r := after (exec (hashBlockOf .md5) b)
    let s := { r with src0Len := 0 }
    Stream .md5 r ([] ++ b.src0Bytes) ∧ s.chain = r.chain ∧ s.msgBits = r.msgBits ∧
      exec (hashFinalOf .md5) s = .next (after (exec (hashFinalOf .md5) s)) ∧
      (after (exec (hashFinalOf .md5) s)).errCode = .ok :=
  ⟨.block (.init rfl) rfl rfl rfl (by decide +kernel), rfl, rfl, rfl, by decide +kernel⟩

theorem witness_HmacKeyLengthCases :
    (zeros 64).length ≤ 64 ∧ 64 < (zeros 65).length ∧ (zeros 63).length + 1 ≤ 64 := by decide

theorem witness_CtCmpIsByteEquality :
    let s := { State.reset with src0Addr := 4096, src1Addr := 4095, src1Len := 1 }
    s.src0Fits ∧ s.src1Fits := by decide

theorem witness_CtCmpLatencyIsConstantTime :
    let s := pending 0x00000006 [] []
    let t := { s with src0Addr := 9, resultEq := true }
    s.cmd = encode .ctCmp ∧ t.cmd = encode .ctCmp ∧ s.src0Len = t.src0Len ∧ s.src1Len = t.src1Len := by decide

/-- The capacity is exactly the length of the text, for two bytes and for none. -/
theorem witness_HexEncWritesDigitPairs :
    let s := place [0x00, 0xff] [] 4
    let u := place [0x00, 0xff] [] 5
    let v := place [] [] 0
    (s.src0Fits ∧ s.dstFits ∧ 2 * s.src0Len.toNat ≤ s.dstCap.toNat) ∧
    (u.src0Fits ∧ u.dstFits ∧ 3 * u.src0Len.toNat - 1 ≤ u.dstCap.toNat) ∧
    (v.src0Fits ∧ v.dstFits ∧ 3 * v.src0Len.toNat - 1 ≤ v.dstCap.toNat) := by decide

/-- The first and the last digit of each of the three ranges. -/
theorem witness_HexDecReadsDigitPairs :
    let digit : Byte → Option Nat := fun c =>
      if 0x30 ≤ c.toNat ∧ c.toNat ≤ 0x39 then some (c.toNat - 0x30)
      else if 0x61 ≤ c.toNat ∧ c.toNat ≤ 0x66 then some (c.toNat - 0x61 + 10)
      else if 0x41 ≤ c.toNat ∧ c.toNat ≤ 0x46 then some (c.toNat - 0x41 + 10)
      else none
    let s := place [0x30, 0x39, 0x61, 0x66, 0x41, 0x46] [] 3
    s.src0Fits ∧ s.dstFits ∧ s.src0Len.toNat = 2 * 3 ∧ 3 ≤ s.dstCap.toNat ∧
      ∀ i, i < 2 * 3 → ∃ v, digit (s.buf.read (s.src0Addr.toNat + i)) = some v := by
  intro digit s
  have all : ∀ i, i < 2 * 3 → digit (s.buf.read (s.src0Addr.toNat + i)) ≠ none := by decide +kernel
  exact ⟨by decide, by decide, by decide, by decide, fun i hi => Option.ne_none_iff_exists'.mp (all i hi)⟩

/-- Odd length; and the bytes just outside the three ranges. -/
theorem witness_HexDecRejectsMalformedText :
    let isDigit : Byte → Prop := fun c =>
      (0x30 ≤ c.toNat ∧ c.toNat ≤ 0x39) ∨ (0x61 ≤ c.toNat ∧ c.toNat ≤ 0x66) ∨ (0x41 ≤ c.toNat ∧ c.toNat ≤ 0x46)
    let s := place [0x30] [] 0
    let u := place [0x2f, 0x3a, 0x60, 0x67, 0x40, 0x47] [] 0
    (s.src0Fits ∧ s.dstFits ∧ s.src0Len.toNat % 2 = 1) ∧
    (u.src0Fits ∧ u.dstFits ∧ u.src0Len.toNat = 6 ∧ ∀ i, i < 6 → ¬ isDigit (u.buf.read (u.src0Addr.toNat + i))) := by
  decide +kernel

theorem witness_HexRoundTrip :
    let s := place [0xff] [] 2
    let t := after (exec .hexEnc s)
    let s' := { t with src0Addr := 512, src0Len := 2, dstAddr := 4095, dstCap := 1 }
    exec .hexEnc s = .next t ∧ t.errCode = .ok ∧ s'.bufSize = s.bufSize ∧ s'.buf = t.buf ∧ s'.src0Addr = s.dstAddr ∧
      s'.src0Len = t.outLen ∧ s'.dstFits ∧ s.src0Len.toNat ≤ s'.dstCap.toNat :=
  ⟨rfl, by decide +kernel, by decide +kernel, rfl, by decide +kernel, by decide +kernel, by decide +kernel,
    by decide +kernel⟩

theorem witness_Base64RoundTrips :
    let s := place [0x66] [] 4
    let t := after (exec .b64Enc s)
    let s' := { t with src0Addr := 512, src0Len := 4, dstAddr := 4095, dstCap := 1 }
    exec .b64Enc s = .next t ∧ t.errCode = .ok ∧ s'.bufSize = s.bufSize ∧ s'.buf = t.buf ∧ s'.src0Addr = s.dstAddr ∧
      s'.src0Len = t.outLen ∧ s'.dstFits ∧ s.src0Len.toNat ≤ s'.dstCap.toNat :=
  ⟨rfl, by decide +kernel, by decide +kernel, rfl, by decide +kernel, by decide +kernel, by decide +kernel,
    by decide +kernel⟩

/-- The second law: "Zg==" decodes to one byte. -/
theorem witness_Base64RoundTrips_text :
    let s := place [0x5a, 0x67, 0x3d, 0x3d] [] 1
    let t := after (exec .b64Dec s)
    let s' := { t with src0Addr := 512, src0Len := 1, dstAddr := 4092, dstCap := 4 }
    exec .b64Dec s = .next t ∧ t.errCode = .ok ∧ s'.bufSize = s.bufSize ∧ s'.buf = t.buf ∧ s'.src0Addr = s.dstAddr ∧
      s'.src0Len = t.outLen ∧ s'.dstFits ∧ s.src0Len.toNat ≤ s'.dstCap.toNat :=
  ⟨rfl, by decide +kernel, by decide +kernel, rfl, by decide +kernel, by decide +kernel, by decide +kernel,
    by decide +kernel⟩

theorem witness_B64EncWritesQuartets :
    let s := place [0x66, 0x6f] [] 4
    s.src0Fits ∧ s.dstFits ∧ 4 * ((s.src0Len.toNat + 2) / 3) ≤ s.dstCap.toNat := by decide

theorem witness_B64DecInvertsEncoding :
    let s := place [0x5a, 0x67, 0x3d, 0x3d] [] 1
    s.src0Fits ∧ s.dstFits ∧ Base64Text (s.buf.readBytes s.src0Addr.toNat s.src0Len.toNat) [0x66] ∧
      List.length ([0x66] : Bytes) ≤ s.dstCap.toNat := by decide +kernel

/-- A text whose length is no multiple of 4 is the text of nothing. -/
theorem witness_B64DecAcceptsEncodingsOnly :
    let s := place [0x5a, 0x67, 0x3d] [] 1
    s.src0Fits ∧ s.dstFits ∧ ∀ b, ¬ Base64Text (s.buf.readBytes s.src0Addr.toNat s.src0Len.toNat) b := by
  refine ⟨by decide, by decide, fun b h => ?_⟩
  have hl := h.1
  rw [Memory.readBytes_length] at hl
  have e : (place [0x5a, 0x67, 0x3d] [] 1).src0Len.toNat = 3 := rfl
  omega

theorem witness_CodecOverflowRecordsNeededLength :
    let isDigit : Byte → Prop := fun c =>
      (0x30 ≤ c.toNat ∧ c.toNat ≤ 0x39) ∨ (0x61 ≤ c.toNat ∧ c.toNat ≤ 0x66) ∨ (0x41 ≤ c.toNat ∧ c.toNat ≤ 0x46)
    let s := place [0x30, 0x66] [] 0
    let u := place [0x5a, 0x67, 0x3d, 0x3d] [] 0
    (s.src0Fits ∧ s.dstFits ∧ s.dstCap.toNat < 2 * s.src0Len.toNat ∧ s.dstCap.toNat < 3 * s.src0Len.toNat - 1 ∧
      s.dstCap.toNat < 4 * ((s.src0Len.toNat + 2) / 3)) ∧
    (s.src0Len.toNat = 2 * 1 ∧ (∀ i, i < 2 → isDigit (s.buf.read (s.src0Addr.toNat + i))) ∧ s.dstCap.toNat < 1) ∧
    (u.src0Fits ∧ u.dstFits ∧ Base64Text (u.buf.readBytes u.src0Addr.toNat u.src0Len.toNat) [0x66] ∧
      u.dstCap.toNat < List.length ([0x66] : Bytes)) := by decide +kernel

theorem witness_BusErrorsHaveNoEffect :
    (Txn.rd8 0x00FF).wellFormed = false ∧ (Txn.rd8 0x0100).wellFormed = true ∧
    (Txn.wr32 0x0001 0).wellFormed = false ∧ (Txn.wr32 0xFFFC 0).wellFormed = true := by decide

/-- Each clause's addresses at the ends of their range: registers, BUF, reserved. -/
theorem witness_BusyTransactionTable :
    let s := pending 0 [] []
    s.busy = true ∧
    ((0x00FC : HostAddr).toNat % 4 = 0 ∧ (0x00FC : HostAddr).toNat < 0x100 ∧ (0x00FC : HostAddr) ≠ 0x0008 ∧
      (0x00FC : HostAddr) ≠ 0x000C) ∧
    (0x8000 ≤ (0x8000 : HostAddr).toNat ∧ (0x8FFF : HostAddr).toNat < 0x8000 + s.bufSize ∧
      (0x8FFC : HostAddr).toNat % 4 = 0) ∧
    (0x100 ≤ (0x0100 : HostAddr).toNat ∧ (0x7FFF : HostAddr).toNat < 0x8000 ∧
      0x8000 + s.bufSize ≤ (0x9000 : HostAddr).toNat) := by decide

theorem witness_ReservedAddressesAreInert :
    (0x100 ≤ (0x0100 : HostAddr).toNat ∧ (0x7FFC : HostAddr).toNat < 0x8000 ∧
      0x8000 + State.reset.bufSize ≤ (0x9000 : HostAddr).toNat) ∧
    ((0x0034 : HostAddr).toNat % 4 = 0 ∧ (0x0034 : HostAddr).toNat = 0x034) ∧
    (0x060 ≤ (0x0060 : HostAddr).toNat ∧ (0x00FC : HostAddr).toNat ≤ 0x0FC) := by decide

theorem witness_CommandInputsStableWhileBusy :
    let s := pending 4 [.txn (.wr32 0x0008 1)] []
    s.busy = true ∧ ∀ w rest, s.host = .txn (.wr32 0x0008 w) :: rest → w.getLsbD 1 = false := by
  refine ⟨rfl, fun w rest h => ?_⟩
  simp only [pending, List.cons.injEq, HostItem.txn.injEq, Txn.wr32.injEq, true_and] at h
  rw [← h.1]; decide

theorem witness_CmdWriteAccepts : State.reset.busy = false ∧ (pending 0 [] []).busy = true := by decide

/-- The first byte, the last byte and the last word of BUF. -/
theorem witness_BufWindowIsLittleEndian :
    State.reset.busy = false ∧ State.reset.sizeLegal ∧
    (0 < State.reset.bufSize ∧ (0x8000 : HostAddr).toNat = 0x8000 + 0) ∧
    (4095 < State.reset.bufSize ∧ (0x8FFF : HostAddr).toNat = 0x8000 + 4095) ∧
    (4092 < State.reset.bufSize ∧ 4092 % 4 = 0 ∧ (0x8FFC : HostAddr).toNat = 0x8000 + 4092) := by decide

theorem witness_ReadWriteRegistersReadBack :
    State.reset.busy = false ∧
    Reg.msgBitsHi ∈ [Reg.src0Addr, .src0Len, .src1Addr, .src1Len, .dstAddr, .dstCap, .msgBitsLo, .msgBitsHi] ∧
    (∃ k, Reg.state 7 = .state k) := ⟨rfl, by decide, 7, rfl⟩

theorem witness_RegisterMapWrites : State.reset.busy = false := rfl

theorem witness_ReadOnlyRegistersIgnoreWrites : State.reset.busy = false := rfl

theorem witness_CtrlWriteSetsIrqEnable :
    (0xFFFFFFFD : Word).getLsbD 1 = false ∧ (2 : Word).getLsbD 1 = true ∧ (3 : Word).getLsbD 1 = true := by decide

theorem witness_IrqFollowsDone :
    engineStep (pending 0 [] []) = .next (after (engineStep (pending 0 [] []))) ∧ State.reset.busy = false ∧
    (3 : Word).getLsbD 1 = true := ⟨rfl, rfl, by decide⟩

theorem witness_IrqEnableActsAtOnce :
    let t := after (engineStep (pending 0 [] []))
    ((1 : Word).getLsbD 1 = false ∧ t.done = true ∧ (1 : Word).getLsbD 0 = true) ∧
    ((0 : Word).getLsbD 1 = false ∧ (0 : Word).getLsbD 0 = false) ∧
    ((pending 0 [] []).irqEn = false ∧ engineStep (pending 0 [] []) = .next t) :=
  ⟨by decide +kernel, by decide, rfl, rfl⟩

theorem witness_ResetTable : (2 : Word).getLsbD 1 = true ∧ State.reset.busy = false := by decide

/-- A pending command with a destination that runs to the end of BUF and past it, one without, and an illegal word. -/
theorem witness_AbortDrawsTheDestination :
    let s := { pending 0x00000010 [] [] with dstAddr := 4095, dstCap := 2 }
    let u := pending 0x00000006 [] []
    let v := pending 0x00000007 [] []
    (s.busy = true ∧ (3 : Word).getLsbD 1 = true ∧ decode s.cmd = .instr .hexEnc ∧ writesDst .hexEnc = true ∧
      s.dstAddr.toNat ≤ 4095 ∧ 4095 < s.dstAddr.toNat + s.dstCap.toNat ∧ 4095 < s.bufSize) ∧
    (u.busy = true ∧ decode u.cmd = .instr .ctCmp ∧ writesDst .ctCmp = false) ∧
    (v.busy = true ∧ decode v.cmd = .illegal .unassignedOp) := by decide

theorem witness_NopCompletes :
    let s := pending 0x00000100 [] []
    let u := pending 0x80000000 [] []
    (s.cmd ≠ 0 ∧ s.cmd.extractLsb' 0 8 = 0) ∧ (u.cmd ≠ 0 ∧ u.cmd.extractLsb' 0 8 = 0) := by decide

theorem witness_PaddingFillsWholeBlocks : 55 % 64 ≤ 55 ∧ ¬ 56 % 64 ≤ 55 ∧ 64 % 64 = 0 := by decide

end Sys2Proof.Tests
end

section
/-! The invariant State.Inv: what each operation that touches BUF or BUF_SIZE does to it, then every step
(00_scope.md R7, 10_state.md R33). -/

namespace Sys2Proof.Machine

open Sys2Proof

/-! ### The two ways a state operation keeps the invariant -/

/-- The invariant reads BUF_SIZE and BUF only. -/
theorem State.Inv.of_same_buf {s t : State} (h : s.Inv) (hsize : t.bufSize = s.bufSize) (hbuf : t.buf = s.buf) :
    t.Inv := by
  simpa only [State.Inv, State.sizeLegal, hsize, hbuf] using h

/-- A write of bytes keeps the invariant when the bytes, if there are any, lie inside BUF; an empty write may name any
address. -/
theorem State.Inv.of_writeBytes {s t : State} (h : s.Inv) (hsize : t.bufSize = s.bufSize) {a : Nat} {bs : Bytes}
    (hbuf : t.buf = s.buf.writeBytes a bs) (hin : bs ≠ [] → a + bs.length ≤ s.bufSize) : t.Inv := by
  by_cases hbs : bs = []
  · subst hbs
    exact h.of_same_buf hsize hbuf
  · obtain ⟨hlegal, hwf, hwithin⟩ := h
    refine ⟨by simpa only [State.sizeLegal, hsize] using hlegal, ?_, ?_⟩
    · rw [hbuf]
      exact Memory.wf_writeBytes bs s.buf a hwf
    · rw [hbuf, hsize]
      exact Memory.within_writeBytes bs s.buf s.bufSize a (hin hbs) hwithin

/-! ### The ENGINE -/

/-- A command writes inside its destination range, which its range check placed inside BUF. -/
theorem CommandResult.keeps_inv {s t : State} (hres : CommandResult s t) (h : s.Inv) : t.Inv := by
  rcases hres with ⟨c, b, eq, out, n, hcap, hout, -, rfl⟩ | ⟨e, n, -, rfl⟩
  · refine h.of_writeBytes (a := s.dstAddr.toNat) (bs := out) rfl rfl fun hne => ?_
    have hfits : s.dstAddr.toNat + s.dstCap.toNat ≤ s.bufSize := (hout hne).1
    omega
  · exact h.of_same_buf rfl rfl

theorem engineStep_keeps_inv {s t : State} (h : s.Inv) (hstep : engineStep s = .next t) : t.Inv := by
  obtain ⟨u, hu, hres⟩ := engineStep_result s
  obtain rfl : u = t := Host.Outcome.next.inj (hu.symm.trans hstep)
  exact hres.keeps_inv h

/-! ### The host -/

/-- The abort's draws fill the destination range clipped to BUF, which is empty when DST_ADDR lies past the end
(70_reset_and_hazards.md R344). -/
theorem State.abort_keeps_inv {s : State} (h : s.Inv) : s.abort.Inv := by
  rcases s.abort_cases with ⟨_, e⟩ | ⟨_, e⟩
  · rwa [e]
  · rw [e]
    refine h.of_writeBytes rfl rfl fun hne => ?_
    have hpos := List.length_pos_of_ne_nil hne
    simp only [List.length_map, State.abortRange_length] at hpos ⊢
    omega

theorem State.softReset_keeps_inv {s : State} (h : s.Inv) : s.softReset.Inv := by
  unfold State.softReset
  split
  · exact (State.abort_keeps_inv h).of_same_buf rfl rfl
  · exact h.of_same_buf rfl rfl

theorem State.ctrlWrite_keeps_inv {s : State} (h : s.Inv) (w : Word) : (s.ctrlWrite w).Inv := by
  unfold State.ctrlWrite
  split
  · exact State.softReset_keeps_inv h
  · exact h.of_same_buf rfl rfl

/-- CTRL is the only register whose write can reach BUF, by the soft reset. -/
theorem State.writeRegIdle_keeps_inv {s : State} (h : s.Inv) (w : Word) (r : Reg) : (s.writeRegIdle w r).Inv := by
  cases r
  case ctrl => exact State.ctrlWrite_keeps_inv h w
  all_goals exact h.of_same_buf rfl rfl

theorem State.writeOffset_keeps_inv {s : State} (h : s.Inv) (off : Nat) (w : Word) : (s.writeOffset off w).Inv := by
  rcases s.writeOffset_cases off w with ⟨_, ⟨r, _, e⟩ | e⟩ | ⟨_, e | e | ⟨_, e⟩⟩ <;> rw [e]
  · exact State.writeRegIdle_keeps_inv h w r
  · exact h
  · exact h.of_same_buf rfl rfl
  · exact h.of_same_buf rfl rfl
  · exact State.ctrlWrite_keeps_inv h w

/-- An aligned word that begins inside BUF ends inside it, because BUF_SIZE is a multiple of 4. -/
theorem State.window_write_inside {s : State} (hlegal : s.sizeLegal) {i n : Nat} (hi : i < s.bufSize)
    (hn : n = 1 ∨ n = 4 ∧ i % 4 = 0) : i + n ≤ s.bufSize := by
  obtain ⟨hmod, -, -⟩ := hlegal
  omega

theorem State.transact_keeps_inv {s : State} (h : s.Inv) (x : Txn) : (s.transact x).1.Inv := by
  rcases s.transact_cases x with e | ⟨_, e⟩ | ⟨_, e⟩ | ⟨a, w, _, _, e⟩ | ⟨_, i, bs, hi, hbs, e⟩ <;> rw [e]
  · exact h
  · exact h.of_same_buf rfl rfl
  · exact h.of_same_buf rfl rfl
  · exact State.writeOffset_keeps_inv h a.toNat w
  · exact h.of_writeBytes rfl rfl fun _ => State.window_write_inside h.1 hi hbs

theorem hostStep_keeps_inv {s : State} (h : s.Inv) : (hostStep s).Inv := by
  rcases hostStep_cases s with ⟨_, e⟩ | ⟨x, rest, _, e⟩ | ⟨rest, _, e⟩ <;> rw [e]
  · exact h
  · have hrest : State.Inv { s with host := rest } := h.of_same_buf rfl rfl
    exact (State.transact_keeps_inv hrest x).of_same_buf rfl rfl
  · exact h.of_same_buf rfl rfl

/-! ### The step -/

theorem State.takeTurn_keeps_inv {s : State} (h : s.Inv) : s.takeTurn.Inv := by
  rcases s.takeTurn_cases with ⟨_, e⟩ | ⟨_, e⟩ <;> rw [e]
  · exact h.of_same_buf rfl rfl
  · exact h

/-- Settles O7, by the agent that moves: the ENGINE, the host, or neither. -/
theorem invariantKeptByEveryStep : Obligations.InvariantKeptByEveryStep := by
  intro s t h hstep
  rcases step_cases s with ⟨_, e⟩ | ⟨_, e⟩ | ⟨_, _, e⟩ <;> rw [e] at hstep
  · exact engineStep_keeps_inv (State.takeTurn_keeps_inv h) hstep
  · obtain rfl := Host.Outcome.next.inj hstep
    exact hostStep_keeps_inv (State.takeTurn_keeps_inv h)
  · obtain rfl := Host.Outcome.next.inj hstep
    exact h

/-- Settles O8: the default BUF_SIZE is legal and BUF lists no byte. -/
theorem invariantAtReset : Obligations.InvariantAtReset :=
  have hlegal : State.reset.sizeLegal := by decide
  ⟨hlegal, Memory.wf_reset, rfl⟩

end Sys2Proof.Machine
end

section
/-! The registers as the host sees them, at their addresses of the map (10_state.md R21 to R30, R50): reads, writes
while BUSY = 0, the STATUS and CTRL writes that act in every state, and the reset. -/

namespace Sys2Proof.Machine

open Sys2Proof

/-! ### A register at its address -/

/-- `transact_rd32_reg` at an address and with a word as the map writes them. -/
theorem State.transact_rd32_at (s : State) {a : HostAddr} {v : Word} (r : Reg) (ha : a = regAddr r)
    (hv : s.readReg r = v) : s.transact (.rd32 a) = (s, .okayRead32 v) := by
  rw [ha, transact_rd32_reg, hv]

theorem State.transact_wr32_idle {s : State} (hidle : s.busy = false) (r : Reg) (w : Word) :
    s.transact (.wr32 (regAddr r) w) = (s.writeRegIdle w r, .okayWrite) := by
  rw [transact_wr32_reg, State.writeOffset_idle s r w hidle]

/-- `State.transact_wr32_idle` at an address and with a state as the map writes them. -/
theorem State.transact_wr32_idle_at {s t : State} (hidle : s.busy = false) {a : HostAddr} {w : Word} (r : Reg)
    (ha : a = regAddr r) (ht : s.writeRegIdle w r = t) : s.transact (.wr32 a w) = (t, .okayWrite) := by
  rw [ha, State.transact_wr32_idle hidle, ht]

/-- A register that a write reaches while BUSY = 1 as it does while BUSY = 0. -/
theorem State.transact_wr32_always (s : State) {r : Reg} {w : Word} (hsame : s.writeRegBusy w r = s.writeRegIdle w r) :
    s.transact (.wr32 (regAddr r) w) = (s.writeRegIdle w r, .okayWrite) := by
  cases hb : s.busy
  · exact State.transact_wr32_idle hb r w
  · rw [transact_wr32_reg, State.writeOffset_busy s r w hb, hsame]

/-- CTRL acts whatever BUSY is (20_memory.md R70). -/
theorem State.transact_wr32_ctrl (s : State) (w : Word) :
    s.transact (.wr32 0x0008 w) = (s.ctrlWrite w, .okayWrite) :=
  s.transact_wr32_always (r := .ctrl) rfl

/-- STATUS acts whatever BUSY is (20_memory.md R70). -/
theorem State.transact_wr32_status (s : State) (w : Word) :
    s.transact (.wr32 0x000C w) = (s.statusWrite w, .okayWrite) :=
  s.transact_wr32_always (r := .status) rfl

/-! ### The composed words -/

/-- A flag in bit 0 of an otherwise zero word, which is how CTRL and RESULT read. -/
theorem zero_append_ofBool (b : Bool) : ((0 : BitVec 31) ++ BitVec.ofBool b : Word) = if b then 1 else 0 := by
  cases b <;> rfl

theorem State.ctrlWord_eq (s : State) : s.ctrlWord = if s.irqEn then 1 else 0 := zero_append_ofBool s.irqEn

theorem State.resultWord_eq (s : State) : s.resultWord = if s.resultEq then 1 else 0 := zero_append_ofBool s.resultEq

theorem State.msgBitsLo_eq (s : State) : s.msgBits.extractLsb' 0 32 = BitVec.ofNat 32 s.msgBits.toNat := by
  apply BitVec.eq_of_toNat_eq
  simp

theorem State.msgBitsHi_eq (s : State) : s.msgBits.extractLsb' 32 32 = BitVec.ofNat 32 (s.msgBits.toNat / 2 ^ 32) := by
  apply BitVec.eq_of_toNat_eq
  simp [Nat.shiftRight_eq_div_pow]

theorem State.writeMsgBitsLo_eq (s : State) (w : Word) : s.writeMsgBitsLo w =
    { s with msgBits := BitVec.ofNat 64 (s.msgBits.toNat / 2 ^ 32 * 2 ^ 32 + w.toNat) } := by
  have hbits : (s.msgBits.extractLsb' 32 32 ++ w : BitVec 64) =
      BitVec.ofNat 64 (s.msgBits.toNat / 2 ^ 32 * 2 ^ 32 + w.toNat) := by
    apply BitVec.eq_of_toNat_eq
    have := s.msgBits.isLt; have := w.isLt
    rw [append_toNat, State.msgBitsHi_eq, BitVec.toNat_ofNat, BitVec.toNat_ofNat]; omega
  rw [State.writeMsgBitsLo, hbits]

theorem State.writeMsgBitsHi_eq (s : State) (w : Word) : s.writeMsgBitsHi w =
    { s with msgBits := BitVec.ofNat 64 (w.toNat * 2 ^ 32 + s.msgBits.toNat % 2 ^ 32) } := by
  have hbits : (w ++ s.msgBits.extractLsb' 0 32 : BitVec 64) =
      BitVec.ofNat 64 (w.toNat * 2 ^ 32 + s.msgBits.toNat % 2 ^ 32) := by
    apply BitVec.eq_of_toNat_eq
    have := w.isLt
    rw [append_toNat, State.msgBitsLo_eq, BitVec.toNat_ofNat, BitVec.toNat_ofNat]; omega
  rw [State.writeMsgBitsHi, hbits]

/-! ### The STATUS word -/

/-- ERR is `ERRCODE != 0` (10_state.md R32). -/
theorem State.err_toNat (s : State) : s.err.toNat = if s.errCode = .ok then 0 else 1 := by
  unfold State.err
  cases s.errCode <;> rfl

theorem ErrCode.bits_toNat_le (e : ErrCode) : e.bits.toNat ≤ 5 := by
  cases e <;> decide

/-- `append_toNat` at every pair of widths. -/
theorem toNat_append_eq_add {m n : Nat} (x : BitVec m) (y : BitVec n) : (x ++ y).toNat = x.toNat * 2 ^ n + y.toNat := by
  rw [BitVec.toNat_append, ← Nat.shiftLeft_add_eq_or_of_lt y.isLt, Nat.shiftLeft_eq]

/-- The number that the fields of STATUS make, each at its bit (10_state.md R25). -/
theorem State.statusWord_toNat (s : State) : s.statusWord.toNat =
    s.busy.toNat + 2 * s.done.toNat + 4 * s.err.toNat + 8 * s.ovr.toNat + 256 * s.errCode.bits.toNat := by
  simp only [State.statusWord, toNat_append_eq_add, BitVec.toNat_ofBool, BitVec.ofNat_eq_ofNat, BitVec.toNat_zero]
  omega

/-! ### Registers that store all 32 bits -/

/-- The registers in which a write stores its whole word: the operand registers, MSGBITS and STATE (10_state.md R26,
R29, R30). -/
def Reg.storesWord : Reg → Bool
  | .src0Addr | .src0Len | .src1Addr | .src1Len | .dstAddr | .dstCap | .msgBitsLo | .msgBitsHi | .state _ => true
  | .id | .bufsz | .ctrl | .status | .cmd | .outLen | .result => false

theorem Reg.storesWord_iff (r : Reg) : Reg.storesWord r = true ↔
    r ∈ [Reg.src0Addr, .src0Len, .src1Addr, .src1Len, .dstAddr, .dstCap, .msgBitsLo, .msgBitsHi] ∨
      ∃ k, r = .state k := by
  cases r <;> simp [Reg.storesWord]

theorem State.readReg_writeRegIdle_self (s : State) (w : Word) {r : Reg} (hr : Reg.storesWord r = true) :
    (s.writeRegIdle w r).readReg r = w := by
  cases r
  case msgBitsLo => exact append_lo _ w
  case msgBitsHi => exact append_hi w _
  case state k => exact Chain.get_set_self s.chain k w
  case id | bufsz | ctrl | status | cmd | outLen | result => cases hr
  all_goals rfl

/-- A half of MSGBITS leaves the other half alone, and a word of STATE the other words. -/
theorem State.readReg_writeRegIdle_other (s : State) (w : Word) {r r' : Reg} (hr : Reg.storesWord r = true)
    (hne : r' ≠ r) : (s.writeRegIdle w r).readReg r' = s.readReg r' := by
  cases r
  case id | bufsz | ctrl | status | cmd | outLen | result => cases hr
  case msgBitsLo =>
    cases r'
    case msgBitsLo => exact absurd rfl hne
    case msgBitsHi => exact append_hi _ w
    all_goals rfl
  case msgBitsHi =>
    cases r'
    case msgBitsHi => exact absurd rfl hne
    case msgBitsLo => exact append_lo w _
    all_goals rfl
  case state k =>
    cases r'
    case state j => exact Chain.get_set_other s.chain k j w fun h => hne (congrArg Reg.state h)
    all_goals rfl
  case src0Addr | src0Len | src1Addr | src1Len | dstAddr | dstCap =>
    cases r' <;> simp [State.writeRegIdle, State.readReg] at hne ⊢ <;> rfl

theorem State.writeRegIdle_buf_busy (s : State) (w : Word) {r : Reg} (hr : Reg.storesWord r = true) :
    (s.writeRegIdle w r).buf = s.buf ∧ (s.writeRegIdle w r).busy = s.busy := by
  cases r
  case id | bufsz | ctrl | status | cmd | outLen | result => cases hr
  all_goals exact ⟨rfl, rfl⟩

/-! ### Reset -/

/-- How the registers read after a reset (10_state.md R50). -/
def State.ReadsAsReset (s : State) : Prop :=
  s.readReg .id = 0x4E484231 ∧ s.readReg .bufsz = BitVec.ofNat 32 s.bufSize ∧ s.busy = false ∧ s.irq = false ∧
    ∀ r, r ≠ .id → r ≠ .bufsz → s.readReg r = 0

theorem Chain.get_zero (i : Fin 8) : Chain.zero.get i = 0 := by
  revert i; decide

theorem State.reset_readReg {r : Reg} (hid : r ≠ .id) (hbufsz : r ≠ .bufsz) : State.reset.readReg r = 0 := by
  cases r
  case id => exact absurd rfl hid
  case bufsz => exact absurd rfl hbufsz
  case state i => exact Chain.get_zero i
  all_goals decide

/-- `clearRegisters` is the power-on reset as far as the registers go; only BUFSZ reads a parameter. -/
theorem State.clearRegisters_readReg (s : State) {r : Reg} (hbufsz : r ≠ .bufsz) :
    s.clearRegisters.readReg r = State.reset.readReg r := by
  cases r
  case bufsz => exact absurd rfl hbufsz
  all_goals rfl

theorem State.clearRegisters_readsAsReset (s : State) : s.clearRegisters.ReadsAsReset :=
  ⟨rfl, rfl, rfl, rfl, fun _ hid hbufsz => (s.clearRegisters_readReg hbufsz).trans (State.reset_readReg hid hbufsz)⟩

/-- Power-on leaves the registers as `clearRegisters` does (10_state.md R50: one table for both resets). -/
theorem State.reset_readsAsReset : State.reset.ReadsAsReset := State.reset.clearRegisters_readsAsReset

theorem State.abort_bufSize (s : State) : s.abort.bufSize = s.bufSize := by
  rcases s.abort_cases with ⟨_, e⟩ | ⟨_, e⟩ <;> rw [e]

theorem State.softReset_readsAsReset (s : State) : s.softReset.ReadsAsReset := State.clearRegisters_readsAsReset _

theorem State.softReset_bufSize (s : State) : s.softReset.bufSize = s.bufSize := by
  unfold State.softReset
  split
  · exact s.abort_bufSize
  · rfl

theorem State.softReset_buf_of_idle {s : State} (hidle : s.busy = false) : s.softReset.buf = s.buf := by
  simp [State.softReset, hidle]

theorem State.ctrlWrite_of_srst {w : Word} (hw : w.getLsbD 1 = true) (s : State) : s.ctrlWrite w = s.softReset :=
  if_pos hw

theorem State.ctrlWrite_of_not_srst {w : Word} (hw : w.getLsbD 1 = false) (s : State) :
    s.ctrlWrite w = { s with irqEn := w.getLsbD 0 } := by
  simp only [State.ctrlWrite, hw, Bool.false_eq_true, if_false]

/-! ### The obligations -/

/-- Settles O50: the register written, every other register, BUF and BUSY, each by its rule for a register write. -/
theorem readWriteRegistersReadBack : Obligations.ReadWriteRegistersReadBack := by
  intro s r w hidle hmem
  have hr : Reg.storesWord r = true := (Reg.storesWord_iff r).mpr hmem
  obtain ⟨hbuf, hbusy⟩ := s.writeRegIdle_buf_busy w hr
  refine ⟨s.writeRegIdle w r, State.transact_wr32_idle hidle r w, ?_, fun r' hne => ?_, fun x => ?_, ?_⟩
  · exact State.transact_rd32_at _ r rfl (s.readReg_writeRegIdle_self w hr)
  · exact State.transact_rd32_at _ r' rfl (s.readReg_writeRegIdle_other w hr hne)
  · rw [hbuf]
  · rw [hbusy, hidle]

/-- Settles O52: the fields do not overlap, so STATUS is their weighted sum, and all below ERRCODE is less than 256. -/
theorem statusWordLayout : Obligations.StatusWordLayout := by
  intro s
  constructor
  · rw [State.statusWord_toNat, State.err_toNat]
    cases s.errCode <;> rfl
  · have hcode := s.errCode.bits_toNat_le
    have hbusy := s.busy.toNat_le; have hdone := s.done.toNat_le
    have herr := s.err.toNat_le; have hovr := s.ovr.toNat_le
    rw [State.statusWord_toNat]
    omega

/-- Settles O57: both resets clear the registers, and only an abort touches BUF. -/
theorem resetTable : Obligations.ResetTable := by
  refine ⟨⟨State.reset_readsAsReset, fun a => rfl⟩, fun s w hw => ⟨s.softReset, ?_, s.softReset_readsAsReset,
    s.softReset_bufSize, State.softReset_buf_of_idle⟩⟩
  rw [State.transact_wr32_ctrl, State.ctrlWrite_of_srst hw]

/-- Settles O48, offset by offset. -/
theorem registerMapWrites : Obligations.RegisterMapWrites := by
  intro s w hidle
  exact ⟨State.transact_wr32_idle_at hidle .src0Addr rfl rfl,
    State.transact_wr32_idle_at hidle .src0Len rfl rfl,
    State.transact_wr32_idle_at hidle .src1Addr rfl rfl,
    State.transact_wr32_idle_at hidle .src1Len rfl rfl,
    State.transact_wr32_idle_at hidle .dstAddr rfl rfl,
    State.transact_wr32_idle_at hidle .dstCap rfl rfl,
    State.transact_wr32_idle_at hidle .msgBitsLo rfl (s.writeMsgBitsLo_eq w),
    State.transact_wr32_idle_at hidle .msgBitsHi rfl (s.writeMsgBitsHi_eq w),
    State.transact_wr32_idle_at hidle (.state 0) rfl rfl,
    State.transact_wr32_idle_at hidle (.state 1) rfl rfl,
    State.transact_wr32_idle_at hidle (.state 2) rfl rfl,
    State.transact_wr32_idle_at hidle (.state 3) rfl rfl,
    State.transact_wr32_idle_at hidle (.state 4) rfl rfl,
    State.transact_wr32_idle_at hidle (.state 5) rfl rfl,
    State.transact_wr32_idle_at hidle (.state 6) rfl rfl,
    State.transact_wr32_idle_at hidle (.state 7) rfl rfl⟩

/-- Settles O49, offset by offset. -/
theorem registerMapReads : Obligations.RegisterMapReads := by
  intro s
  exact ⟨s.transact_rd32_at .id rfl rfl,
    s.transact_rd32_at .bufsz rfl rfl,
    s.transact_rd32_at .ctrl rfl s.ctrlWord_eq,
    s.transact_rd32_at .status rfl rfl,
    s.transact_rd32_at .cmd rfl rfl,
    s.transact_rd32_at .src0Addr rfl rfl,
    s.transact_rd32_at .src0Len rfl rfl,
    s.transact_rd32_at .src1Addr rfl rfl,
    s.transact_rd32_at .src1Len rfl rfl,
    s.transact_rd32_at .dstAddr rfl rfl,
    s.transact_rd32_at .dstCap rfl rfl,
    s.transact_rd32_at .outLen rfl rfl,
    s.transact_rd32_at .result rfl s.resultWord_eq,
    s.transact_rd32_at .msgBitsLo rfl s.msgBitsLo_eq,
    s.transact_rd32_at .msgBitsHi rfl s.msgBitsHi_eq,
    s.transact_rd32_at (.state 0) rfl rfl,
    s.transact_rd32_at (.state 1) rfl rfl,
    s.transact_rd32_at (.state 2) rfl rfl,
    s.transact_rd32_at (.state 3) rfl rfl,
    s.transact_rd32_at (.state 4) rfl rfl,
    s.transact_rd32_at (.state 5) rfl rfl,
    s.transact_rd32_at (.state 6) rfl rfl,
    s.transact_rd32_at (.state 7) rfl rfl⟩

/-- Settles O51: the four read-only registers, each at its address. -/
theorem readOnlyRegistersIgnoreWrites : Obligations.ReadOnlyRegistersIgnoreWrites := by
  intro s
  refine ⟨s.transact_rd32_at .id rfl rfl, s.transact_rd32_at .bufsz rfl rfl, fun hidle w a ha => ?_⟩
  simp only [List.mem_cons, List.not_mem_nil, or_false] at ha
  rcases ha with hid | hbufsz | houtLen | hresult
  · exact State.transact_wr32_idle_at hidle .id hid rfl
  · exact State.transact_wr32_idle_at hidle .bufsz hbufsz rfl
  · exact State.transact_wr32_idle_at hidle .outLen houtLen rfl
  · exact State.transact_wr32_idle_at hidle .result hresult rfl

/-- Settles O53: `b && !c` is `b` cleared by `c`. -/
theorem statusWriteAcknowledges : Obligations.StatusWriteAcknowledges := by
  intro s w
  have hclear : ∀ b c : Bool, (b && !c) = if c then false else b := by decide
  rw [State.transact_wr32_status, State.statusWrite, hclear, hclear]

/-- Settles O54, by bit 1 of the word written. -/
theorem ctrlWriteSetsIrqEnable : Obligations.CtrlWriteSetsIrqEnable := by
  refine ⟨rfl, fun s w => ⟨s.transact_rd32_at .ctrl rfl s.ctrlWord_eq, fun hw => ?_, fun hw => ?_⟩⟩
  · rw [State.transact_wr32_ctrl, State.ctrlWrite_of_not_srst hw]
  · exact ⟨s.softReset, by rw [State.transact_wr32_ctrl, State.ctrlWrite_of_srst hw], rfl, rfl⟩

end Sys2Proof.Machine
end

section
/-! The host bus, transaction by transaction: BUSERR, the reserved ranges, what happens while BUSY = 1, and the
little-endian BUF window (20_memory.md R63 to R70). -/

namespace Sys2Proof.Machine

open Sys2Proof

/-! ### Which transactions the bus takes -/

theorem State.transact_rd8 (s : State) {a : HostAddr} (ha : 0x100 ≤ a.toNat) : s.transact (.rd8 a) = s.read8 a :=
  if_pos (by rw [busAccepts_8, decide_eq_true ha])

theorem State.transact_wr8 (s : State) {a : HostAddr} (ha : 0x100 ≤ a.toNat) (d : Byte) :
    s.transact (.wr8 a d) = s.write8 a d :=
  if_pos (by rw [busAccepts_8, decide_eq_true ha])

theorem State.transact_rd32 (s : State) {a : HostAddr} (ha : a.toNat % 4 = 0) : s.transact (.rd32 a) = s.read32 a :=
  if_pos (by rw [busAccepts_32, decide_eq_true ha])

theorem State.transact_wr32 (s : State) {a : HostAddr} (ha : a.toNat % 4 = 0) (d : Word) :
    s.transact (.wr32 a d) = s.write32 a d :=
  if_pos (by rw [busAccepts_32, decide_eq_true ha])

/-- `Txn.wellFormed` is the condition under which the bus accepts. -/
theorem State.transact_of_not_wellFormed (s : State) {x : Txn} (hx : x.wellFormed = false) :
    s.transact x = (s, .busErr) := by
  cases x with
  | rd8 a => exact if_neg (by rw [busAccepts_8]; exact Bool.eq_false_iff.mp hx)
  | rd32 a => exact if_neg (by rw [busAccepts_32]; exact Bool.eq_false_iff.mp hx)
  | wr8 a d => exact if_neg (by rw [busAccepts_8]; exact Bool.eq_false_iff.mp hx)
  | wr32 a d => exact if_neg (by rw [busAccepts_32]; exact Bool.eq_false_iff.mp hx)

/-! ### What an accepted transaction does in each region -/

theorem State.region_reserved (s : State) {a : HostAddr}
    (ha : (0x100 ≤ a.toNat ∧ a.toNat < 0x8000) ∨ 0x8000 + s.bufSize ≤ a.toNat) : s.region a = .reserved := by
  rcases ha with ⟨hlo, hhi⟩ | hhi
  · exact s.region_low_reserved a hlo hhi
  · exact s.region_high_reserved a hhi

/-- The address of index i of BUF. -/
theorem State.region_window (s : State) {a : HostAddr} {i : Nat} (hi : i < s.bufSize) (ha : a.toNat = 0x8000 + i) :
    s.region a = .buf i := by
  rw [s.region_buf a (by omega) (by omega), ha, Nat.add_sub_cancel_left]

/-- Outside the register block no accepted byte read answers BUSERR. -/
theorem State.read8_ne_busErr (s : State) {a : HostAddr} (ha : 0x100 ≤ a.toNat) : (s.read8 a).2 ≠ .busErr := by
  rcases s.region_cases a with ⟨hlt, _⟩ | ⟨_, e⟩ | ⟨_, _, e⟩
  · omega
  · simp [State.read8, e]
  · cases hb : s.busy <;> simp [State.read8, State.readBuf8, e, hb]

theorem State.write8_ne_busErr (s : State) {a : HostAddr} (ha : 0x100 ≤ a.toNat) (d : Byte) :
    (s.write8 a d).2 ≠ .busErr := by
  rcases s.region_cases a with ⟨hlt, _⟩ | ⟨_, e⟩ | ⟨_, _, e⟩
  · omega
  · simp [State.write8, e]
  · simp [State.write8, e]

theorem State.read32_ne_busErr (s : State) (a : HostAddr) : (s.read32 a).2 ≠ .busErr := by
  rcases s.region_cases a with ⟨_, e⟩ | ⟨_, e⟩ | ⟨_, _, e⟩
  · simp [State.read32, e]
  · simp [State.read32, e]
  · cases hb : s.busy <;> simp [State.read32, State.readBuf32, e, hb]

theorem State.write32_reply (s : State) (a : HostAddr) (d : Word) : (s.write32 a d).2 = .okayWrite := by
  rcases s.region_cases a with ⟨_, e⟩ | ⟨_, e⟩ | ⟨_, _, e⟩ <;> simp only [State.write32, e]

/-- A reserved aperture address reads 0 and ignores writes, whatever BUSY is (20_memory.md R67, R70). -/
theorem State.transact_reserved (s : State) {a : HostAddr}
    (ha : (0x100 ≤ a.toNat ∧ a.toNat < 0x8000) ∨ 0x8000 + s.bufSize ≤ a.toNat) :
    s.transact (.rd8 a) = (s, .okayRead8 0) ∧ (∀ w, s.transact (.wr8 a w) = (s, .okayWrite)) ∧
      (a.toNat % 4 = 0 →
        s.transact (.rd32 a) = (s, .okayRead32 0) ∧ ∀ w, s.transact (.wr32 a w) = (s, .okayWrite)) := by
  have hreg := s.region_reserved ha
  have hout : 0x100 ≤ a.toNat := by omega
  refine ⟨?_, fun w => ?_, fun h4 => ⟨?_, fun w => ?_⟩⟩
  · rw [s.transact_rd8 hout, State.read8, hreg]
  · rw [s.transact_wr8 hout, State.write8, hreg]
  · rw [s.transact_rd32 h4, State.read32, hreg]
  · rw [s.transact_wr32 h4, State.write32, hreg]

/-! ### The register block by offset -/

theorem State.transact_rd32_block (s : State) {a : HostAddr} (h4 : a.toNat % 4 = 0) (hlt : a.toNat < 0x100) :
    s.transact (.rd32 a) = (s, .okayRead32 (s.readOffset a.toNat)) := by
  rw [s.transact_rd32 h4, State.read32, s.region_regs a hlt]

theorem State.transact_wr32_block (s : State) {a : HostAddr} (h4 : a.toNat % 4 = 0) (hlt : a.toNat < 0x100)
    (w : Word) : s.transact (.wr32 a w) = (s.writeOffset a.toNat w, .okayWrite) := by
  rw [s.transact_wr32 h4, State.write32, s.region_regs a hlt]

theorem offset_of_regAt {off : Nat} {r : Reg} (h : regAt off = some r) : Reg.offset r = off := by
  simpa using List.find?_some h

/-- The register map leaves 0x034 out and ends before 0x060 (10_state.md R21, R31). -/
theorem regAt_reserved {off : Nat} (hoff : off = 0x034 ∨ 0x060 ≤ off) : regAt off = none := by
  cases hr : regAt off with
  | none => rfl
  | some r =>
    have ho := offset_of_regAt hr
    cases r <;> simp only [Reg.offset] at ho <;> omega

theorem State.writeOffset_reserved_idle {s : State} (hidle : s.busy = false) {off : Nat} (hoff : regAt off = none)
    (w : Word) : s.writeOffset off w = s := by
  simp only [State.writeOffset, hoff, hidle]

theorem State.writeOffset_reserved_busy {s : State} (hbusy : s.busy = true) {off : Nat} (hoff : regAt off = none)
    (w : Word) : s.writeOffset off w = s.setOvr := by
  simp only [State.writeOffset, hoff, hbusy]

/-- A reserved register offset keeps no word; while BUSY = 1 the attempt is recorded in OVR (10_state.md R31). -/
theorem State.writeOffset_reserved (s : State) {off : Nat} (hoff : regAt off = none) (w : Word) :
    s.writeOffset off w = { s with ovr := s.ovr || s.busy } := by
  rcases Bool.eq_false_or_eq_true s.busy with hbusy | hidle
  · have hovr : (s.ovr || s.busy) = true := by rw [hbusy, Bool.or_true]
    rw [State.writeOffset_reserved_busy hbusy hoff, hovr, State.setOvr]
  · have hovr : (s.ovr || s.busy) = s.ovr := by rw [hidle, Bool.or_false]
    rw [State.writeOffset_reserved_idle hidle hoff, hovr]

/-- CTRL and STATUS are the only offsets at which a write acts while BUSY = 1 (20_memory.md R70). -/
theorem State.writeOffset_dropped {s : State} (hbusy : s.busy = true) {off : Nat} (hctrl : off ≠ 0x008)
    (hstatus : off ≠ 0x00C) (w : Word) : s.writeOffset off w = s.setOvr := by
  cases hr : regAt off with
  | none => exact State.writeOffset_reserved_busy hbusy hr w
  | some r =>
    obtain rfl := offset_of_regAt hr
    rw [s.writeOffset_busy r w hbusy]
    cases r
    case ctrl => exact absurd rfl hctrl
    case status => exact absurd rfl hstatus
    all_goals rfl

/-! ### The BUF window -/

section Window

variable {s : State} {a : HostAddr} {i : Nat} (hi : i < s.bufSize) (ha : a.toNat = 0x8000 + i)

include hi ha

theorem State.transact_rd8_window : s.transact (.rd8 a) = s.readBuf8 i := by
  rw [s.transact_rd8 (by omega), State.read8, s.region_window hi ha]

theorem State.transact_wr8_window (d : Byte) : s.transact (.wr8 a d) = (s.writeBuf i [d], .okayWrite) := by
  rw [s.transact_wr8 (by omega), State.write8, s.region_window hi ha]

theorem State.transact_rd32_window (h4 : i % 4 = 0) : s.transact (.rd32 a) = s.readBuf32 i := by
  rw [s.transact_rd32 (by omega), State.read32, s.region_window hi ha]

theorem State.transact_wr32_window (h4 : i % 4 = 0) (d : Word) :
    s.transact (.wr32 a d) = (s.writeBuf i (le32 d), .okayWrite) := by
  rw [s.transact_wr32 (by omega), State.write32, s.region_window hi ha]

end Window

theorem State.readBuf8_idle {s : State} (hidle : s.busy = false) (i : Nat) :
    s.readBuf8 i = (s, .okayRead8 (s.buf.read i)) := by
  simp [State.readBuf8, hidle]

theorem State.readBuf8_busy {s : State} (hbusy : s.busy = true) (i : Nat) :
    s.readBuf8 i = (s.drawRead, .okayRead8 ((Config.busyRead s.draws).extractLsb' 0 8)) :=
  if_pos hbusy

theorem State.readBuf32_idle {s : State} (hidle : s.busy = false) (i : Nat) :
    s.readBuf32 i =
      (s, .okayRead32 (ofLE (s.buf.read i) (s.buf.read (i + 1)) (s.buf.read (i + 2)) (s.buf.read (i + 3)))) := by
  simp [State.readBuf32, hidle]

theorem State.readBuf32_busy {s : State} (hbusy : s.busy = true) (i : Nat) :
    s.readBuf32 i = (s.drawRead, .okayRead32 (Config.busyRead s.draws)) :=
  if_pos hbusy

theorem State.writeBuf_idle {s : State} (hidle : s.busy = false) (i : Nat) (bs : Bytes) :
    s.writeBuf i bs = { s with buf := s.buf.writeBytes i bs } := by
  simp [State.writeBuf, hidle]

theorem State.writeBuf_busy {s : State} (hbusy : s.busy = true) (i : Nat) (bs : Bytes) : s.writeBuf i bs = s.setOvr :=
  if_pos hbusy

/-- A byte read of the window, with the byte named. -/
theorem State.transact_rd8_window_idle {s : State} {a : HostAddr} {i : Nat} {b : Byte} (hidle : s.busy = false)
    (hi : i < s.bufSize) (ha : a.toNat = 0x8000 + i) (hb : s.buf.read i = b) :
    s.transact (.rd8 a) = (s, .okayRead8 b) := by
  rw [State.transact_rd8_window hi ha, State.readBuf8_idle hidle, hb]

/-- A word read of the window, with the word named. -/
theorem State.transact_rd32_window_idle {s : State} {a : HostAddr} {i : Nat} {w : Word} (hidle : s.busy = false)
    (hi : i < s.bufSize) (ha : a.toNat = 0x8000 + i) (h4 : i % 4 = 0)
    (hw : ofLE (s.buf.read i) (s.buf.read (i + 1)) (s.buf.read (i + 2)) (s.buf.read (i + 3)) = w) :
    s.transact (.rd32 a) = (s, .okayRead32 w) := by
  rw [State.transact_rd32_window hi ha h4, State.readBuf32_idle hidle, hw]

/-! ### Byte lanes -/

/-- The four lanes, for a proof lane by lane. -/
theorem lane_cases {k : Nat} (hk : k < 4) : k = 0 ∨ k = 1 ∨ k = 2 ∨ k = 3 := by omega

/-- The lanes of a word put together from four bytes (20_memory.md R66). -/
theorem extractLsb'_ofLE (a b c d : Byte) {k : Nat} (hk : k < 4) :
    (ofLE a b c d).extractLsb' (8 * k) 8 = [a, b, c, d].getD k 0 := by
  have := a.isLt; have := b.isLt; have := c.isLt; have := d.isLt
  apply BitVec.eq_of_toNat_eq
  rw [BitVec.extractLsb'_toNat, ofLE_toNat, Nat.shiftRight_eq_div_pow]
  obtain rfl | rfl | rfl | rfl := lane_cases hk <;> simp only [List.getD_cons_zero, List.getD_cons_succ] <;> omega

/-- The lanes of a word taken apart, as `extractLsb'_ofLE` numbers them. -/
theorem le32_getD (w : Word) {k : Nat} (hk : k < 4) : (le32 w).getD k 0 = w.extractLsb' (8 * k) 8 := by
  obtain rfl | rfl | rfl | rfl := lane_cases hk <;> rfl

theorem Memory.read_writeBytes_le32 (m : Memory) (i : Nat) (w : Word) {k : Nat} (hk : k < 4) :
    (m.writeBytes i (le32 w)).read (i + k) = w.extractLsb' (8 * k) 8 := by
  rw [Memory.read_writeBytes_inside _ _ _ _ hk, le32_getD w hk]

/-- A word stored by `le32` is read back by `ofLE`. -/
theorem Memory.ofLE_read_writeBytes_le32 (m : Memory) (i : Nat) (w : Word) :
    let m' := m.writeBytes i (le32 w)
    ofLE (m'.read i) (m'.read (i + 1)) (m'.read (i + 2)) (m'.read (i + 3)) = w := by
  have h0 : (m.writeBytes i (le32 w)).read i = _ := m.read_writeBytes_le32 i w (k := 0) (by decide)
  have h1 := m.read_writeBytes_le32 i w (k := 1) (by decide)
  have h2 := m.read_writeBytes_le32 i w (k := 2) (by decide)
  have h3 := m.read_writeBytes_le32 i w (k := 3) (by decide)
  simp only [h0, h1, h2, h3]
  exact ofLE_bytes w

/-! ### What a pending command depends on -/

/-- The part of the state that a pending command reads or that its last completion left; the flags outside it, the draws
and the host are set to fixed values (20_memory.md R70, last paragraph). -/
def State.commandPart (s : State) : State :=
  { s with irqEn := false, done := false, ovr := false, draws := 0, host := [], turns := [], replies := [] }

theorem State.commandPart_issue (s : State) (x : Txn) :
    (s.issue x).commandPart = (s.transact x).1.commandPart := rfl

/-- While BUSY = 1 only a soft reset reaches past the flags and the draws. -/
theorem State.commandPart_transact {s : State} (hbusy : s.busy = true) {x : Txn}
    (hx : ∀ w, x = .wr32 0x0008 w → w.getLsbD 1 = false) : (s.transact x).1.commandPart = s.commandPart := by
  rcases s.transact_cases x with e | ⟨_, e⟩ | ⟨_, e⟩ | ⟨a, w, hxa, _, e⟩ | ⟨hidle, _⟩
  · rw [e]
  · rw [e]; rfl
  · rw [e]; rfl
  · rcases s.writeOffset_cases a.toNat w with ⟨hidle, _⟩ | ⟨_, e' | e' | ⟨hctrl, e'⟩⟩
    · exact absurd (hbusy.symm.trans hidle) (by decide)
    · rw [e, e']; rfl
    · rw [e, e']; rfl
    · have ha : a = 0x0008 := BitVec.eq_of_toNat_eq hctrl
      rw [e, e', State.ctrlWrite_of_not_srst (hx w (by rw [hxa, ha]))]; rfl
  · exact absurd (hbusy.symm.trans hidle) (by decide)

theorem hostStep_commandPart {s : State} (hbusy : s.busy = true)
    (hnext : ∀ w rest, s.host = .txn (.wr32 0x0008 w) :: rest → w.getLsbD 1 = false) :
    (hostStep s).commandPart = s.commandPart := by
  rcases hostStep_cases s with ⟨_, e⟩ | ⟨x, rest, hhost, e⟩ | ⟨rest, _, e⟩
  · rw [e]
  · have hx : ∀ w, x = .wr32 0x0008 w → w.getLsbD 1 = false := fun w hw => hnext w rest (by rw [hhost, hw])
    rw [e, State.commandPart_issue]
    exact State.commandPart_transact (s := { s with host := rest }) hbusy hx
  · rw [e]; rfl

/-! ### The obligations -/

/-- Settles O42, by the transaction's kind and size. -/
theorem busErrorsHaveNoEffect : Obligations.BusErrorsHaveNoEffect := by
  refine fun s x => ⟨s.transact_of_not_wellFormed, fun hx => ?_⟩
  cases x with
  | rd8 a =>
    have ha : 0x100 ≤ a.toNat := of_decide_eq_true hx
    rw [s.transact_rd8 ha]
    exact s.read8_ne_busErr ha
  | rd32 a =>
    rw [s.transact_rd32 (of_decide_eq_true hx)]
    exact s.read32_ne_busErr a
  | wr8 a d =>
    have ha : 0x100 ≤ a.toNat := of_decide_eq_true hx
    rw [s.transact_wr8 ha]
    exact s.write8_ne_busErr ha d
  | wr32 a d =>
    rw [s.transact_wr32 (of_decide_eq_true hx), s.write32_reply]
    exact Reply.noConfusion

/-- Settles O43, row by row of R70's table. -/
theorem busyTransactionTable : Obligations.BusyTransactionTable := by
  refine fun s a hbusy => ⟨transact_rd32_reg s, s.transact_wr32_ctrl, s.transact_wr32_status,
    fun h4 hlt hctrl hstatus w => ?_, fun hlo hhi => ?_, s.transact_reserved⟩
  · have hoff : ∀ b : HostAddr, a ≠ b → a.toNat ≠ b.toNat := fun b hb h => hb (BitVec.eq_of_toNat_eq h)
    rw [s.transact_wr32_block h4 hlt, State.writeOffset_dropped hbusy (hoff _ hctrl) (hoff _ hstatus), State.setOvr]
  · obtain ⟨i, ha⟩ : ∃ i, a.toNat = 0x8000 + i := ⟨a.toNat - 0x8000, by omega⟩
    have hi : i < s.bufSize := by omega
    refine ⟨⟨_, (State.transact_rd8_window hi ha).trans (State.readBuf8_busy hbusy i)⟩, fun w => ?_, fun h4 => ?_⟩
    · rw [State.transact_wr8_window hi ha, State.writeBuf_busy hbusy, State.setOvr]
    · have hi4 : i % 4 = 0 := by omega
      refine ⟨⟨_, (State.transact_rd32_window hi ha hi4).trans (State.readBuf32_busy hbusy i)⟩, fun w => ?_⟩
      rw [State.transact_wr32_window hi ha hi4, State.writeBuf_busy hbusy, State.setOvr]

/-- Settles O44: the reserved ranges by their region, the reserved offsets by the register map. -/
theorem reservedAddressesAreInert : Obligations.ReservedAddressesAreInert := by
  refine fun s a => ⟨s.transact_reserved, fun h4 hoff => ?_⟩
  have hlt : a.toNat < 0x100 := by omega
  have hnone : regAt a.toNat = none := regAt_reserved (by omega)
  refine ⟨?_, fun w => ?_⟩
  · rw [s.transact_rd32_block h4 hlt, State.readOffset, hnone]
  · rw [s.transact_wr32_block h4 hlt, s.writeOffset_reserved hnone]

/-- Settles O45: each claim is a field of `State.commandPart`. -/
theorem commandInputsStableWhileBusy : Obligations.CommandInputsStableWhileBusy := by
  intro s hbusy hnext
  have kept {α : Type} (field : State → α) : field (hostStep s).commandPart = field s.commandPart :=
    congrArg field (hostStep_commandPart hbusy hnext)
  have hinputs : SameInputs s (hostStep s) :=
    { bufSize := kept State.bufSize
      src0Addr := kept State.src0Addr
      src0Len := kept State.src0Len
      src1Addr := kept State.src1Addr
      src1Len := kept State.src1Len
      dstAddr := kept State.dstAddr
      dstCap := kept State.dstCap
      msgBits := kept State.msgBits
      chain := kept State.chain
      buf := kept State.buf }
  exact ⟨(kept State.busy).trans hbusy, kept State.cmd, hinputs, kept State.outLen,
    kept State.errCode, kept State.resultEq⟩

/-- Settles O47: a byte access, a word read, and a word write with the reads that follow it. -/
theorem bufWindowIsLittleEndian : Obligations.BufWindowIsLittleEndian := by
  intro s i a hidle hlegal hi ha
  refine ⟨State.transact_rd8_window_idle hidle hi ha rfl, fun b => ?_, fun h4 => ⟨?_, fun w => ?_⟩⟩
  · refine ⟨{ s with buf := s.buf.writeBytes i [b] }, ?_, rfl, ?_, fun x hx => ?_⟩
    · rw [State.transact_wr8_window hi ha, State.writeBuf_idle hidle]
    · exact Memory.read_write_self s.buf i b
    · exact Memory.read_write_other s.buf i x b hx
  · refine ⟨_, State.transact_rd32_window_idle hidle hi ha h4 rfl, fun k hk => ?_⟩
    rw [extractLsb'_ofLE _ _ _ _ hk]
    obtain rfl | rfl | rfl | rfl := lane_cases hk <;> rfl
  · have hend : i + 4 ≤ s.bufSize := State.window_write_inside hlegal hi (.inr ⟨rfl, h4⟩)
    obtain ⟨-, -, hsize⟩ := hlegal
    refine ⟨{ s with buf := s.buf.writeBytes i (le32 w) }, ?_, rfl, fun k hk => ?_, ?_, fun x hx => ?_⟩
    · rw [State.transact_wr32_window hi ha h4, State.writeBuf_idle hidle]
    · have hbyte := s.buf.read_writeBytes_le32 i w hk
      have hik : i + k < s.bufSize := by omega
      have hak : (a + BitVec.ofNat 16 k).toNat = 0x8000 + (i + k) := by
        rw [BitVec.toNat_add, BitVec.toNat_ofNat, ha]; omega
      exact ⟨hbyte, State.transact_rd8_window_idle hidle hik hak hbyte⟩
    · exact State.transact_rd32_window_idle hidle hi ha h4 (s.buf.ofLE_read_writeBytes_le32 i w)
    · exact Memory.read_writeBytes_outside _ _ _ _ hx

end Sys2Proof.Machine
end

section
/-! Where a command writes BUF (20_memory.md R69, 40_control.md R123, R127, R130). -/

namespace Sys2Proof.Machine

open Sys2Proof

/-! ### The commands without a destination -/

theorem State.checked_buf {s : State} (i : Instr) {body : State} (hbody : body.buf = s.buf) :
    (s.checked i body).buf = s.buf := by
  rcases s.checked_cases i body with ⟨_, e⟩ | ⟨_, e⟩ <;> rw [e]
  · exact hbody
  · exact s.raiseError_buf .range 0

theorem hashInitBody_buf (alg : Alg) (s : State) : (hashInitBody alg s).buf = s.buf := rfl

theorem hashBlockBody_buf (alg : Alg) (s : State) : (hashBlockBody alg s).buf = s.buf := by
  unfold hashBlockBody
  split <;> rfl

theorem ctCmpBody_buf (s : State) : (ctCmpBody s).buf = s.buf := rfl

/-- A command whose operands hold no destination leaves BUF alone (40_control.md R123). -/
theorem exec_buf_of_no_dst {i : Instr} (hi : writesDst i = false) (s : State) :
    ∃ t, exec i s = .next t ∧ t.buf = s.buf := by
  cases i
  case nop => exact ⟨_, rfl, State.checked_buf _ (s.complete_buf 0)⟩
  case hashInitSha256 => exact ⟨_, rfl, State.checked_buf _ (hashInitBody_buf _ s)⟩
  case hashInitSha1 => exact ⟨_, rfl, State.checked_buf _ (hashInitBody_buf _ s)⟩
  case hashInitMd5 => exact ⟨_, rfl, State.checked_buf _ (hashInitBody_buf _ s)⟩
  case hashBlockSha256 => exact ⟨_, rfl, State.checked_buf _ (hashBlockBody_buf _ s)⟩
  case hashBlockSha1 => exact ⟨_, rfl, State.checked_buf _ (hashBlockBody_buf _ s)⟩
  case hashBlockMd5 => exact ⟨_, rfl, State.checked_buf _ (hashBlockBody_buf _ s)⟩
  case ctCmp => exact ⟨_, rfl, State.checked_buf _ (ctCmpBody_buf s)⟩
  all_goals exact absurd hi (by decide)

/-! ### Every command -/

/-- A command's result has BUF changed only inside the recorded output of a success. -/
theorem CommandResult.read_buf_outside {s t : State} (hres : CommandResult s t) {a : Nat}
    (ha : a < s.dstAddr.toNat ∨ s.dstAddr.toNat + t.outLen.toNat ≤ a ∨ t.errCode ≠ .ok) :
    t.buf.read a = s.buf.read a := by
  rcases hres with ⟨c, b, eq, out, n, -, hout, hn, rfl⟩ | ⟨e, n, -, rfl⟩
  · by_cases hne : out = []
    · subst hne; rfl
    · obtain ⟨-, rfl⟩ := hout hne
      have hlen : (BitVec.ofNat 32 out.length).toNat = out.length := by
        rw [BitVec.toNat_ofNat, Nat.mod_eq_of_lt hn]
      rw [State.complete_outLen, hlen, State.complete_errCode] at ha
      rw [State.complete_buf]
      exact Memory.read_writeBytes_outside out s.buf _ a (by simpa using ha)
  · rw [State.raiseError_buf]

/-- Settles O14: the destination's bytes by the shape of a command's result, the rest because no other command writes
BUF. -/
theorem bufWrittenOnlyInsideDestination : Obligations.BufWrittenOnlyInsideDestination := by
  intro i s t a hexec ha
  by_cases hi : writesDst i = false
  · obtain ⟨u, hu, hbuf⟩ := exec_buf_of_no_dst hi s
    obtain rfl : u = t := Host.Outcome.next.inj (hu.symm.trans hexec)
    rw [hbuf]
  · obtain ⟨u, hu, hres⟩ := exec_result i s
    obtain rfl : u = t := Host.Outcome.next.inj (hu.symm.trans hexec)
    exact hres.read_buf_outside (by tauto)

end Sys2Proof.Machine
end

section
/-! Command words: the fields, the legality predicate, the decoder and the encoder (30_encoding.md R90 to R100), then
what an illegal word does and how WAIT polls. -/

namespace Sys2Proof.Machine

open Sys2Proof

/-! ### A word and its fields (30_encoding.md R90) -/

/-- The number that the fields of a command word make, each at its bit (30_encoding.md R90). -/
theorem wordOf_toNat (f : CmdFields) :
    (wordOf f).toNat = f.op.toNat + 2 ^ 8 * f.alg.toNat + 2 ^ 10 * f.sp.toNat + 2 ^ 11 * f.rsv.toNat := by
  simp only [wordOf, toNat_append_eq_add, BitVec.toNat_ofBool]
  omega

/-- The number that one bit of a word makes. -/
theorem getLsbD_toNat (w : Word) (k : Nat) : (w.getLsbD k).toNat = w.toNat / 2 ^ k % 2 := by
  rw [BitVec.getLsbD, Nat.toNat_testBit]

theorem wordOf_fieldsOf (w : Word) : wordOf (fieldsOf w) = w := by
  apply BitVec.eq_of_toNat_eq
  simp only [wordOf_toNat, fieldsOf, BitVec.extractLsb'_toNat, getLsbD_toNat, Nat.shiftRight_eq_div_pow]
  omega

theorem fieldsOf_wordOf (f : CmdFields) : fieldsOf (wordOf f) = f := by
  obtain ⟨op, alg, sp, rsv⟩ := f
  have hop := op.isLt
  have halg := alg.isLt
  have hsp := sp.toNat_lt
  have hrsv := rsv.isLt
  rw [fieldsOf, CmdFields.mk.injEq]
  refine ⟨BitVec.eq_of_toNat_eq ?_, BitVec.eq_of_toNat_eq ?_, Function.LeftInverse.injective Bool.ofNat_toNat ?_,
    BitVec.eq_of_toNat_eq ?_⟩
  all_goals
    simp only [BitVec.extractLsb'_toNat, getLsbD_toNat, Nat.shiftRight_eq_div_pow, wordOf_toNat]
    omega

theorem fieldsOf_eq_iff {w : Word} {f : CmdFields} : fieldsOf w = f ↔ w = wordOf f :=
  ⟨fun h => by rw [← h, wordOf_fieldsOf], fun h => by rw [h, fieldsOf_wordOf]⟩

/-! ### The two shapes of a command's fields (30_encoding.md R91, R97) -/

theorem fields_hashInitOf (a : Alg) : (hashInitOf a).fields = algFields 0x01 a := by cases a <;> rfl

theorem fields_hashBlockOf (a : Alg) : (hashBlockOf a).fields = algFields 0x02 a := by cases a <;> rfl

theorem fields_hashFinalOf (a : Alg) : (hashFinalOf a).fields = algFields 0x03 a := by cases a <;> rfl

theorem fields_hashOf (a : Alg) : (hashOf a).fields = algFields 0x04 a := by cases a <;> rfl

theorem fields_hmacOf (a : Alg) : (hmacOf a).fields = algFields 0x05 a := by cases a <;> rfl

theorem eq_algFields {f : CmdFields} {op : BitVec 8} {a : Alg} (hrsv : f.rsv = 0) (hop : f.op = op)
    (halg : f.alg = a.bits) (hsp : f.sp = false) : f = algFields op a := by
  cases f
  simp_all only [algFields]

theorem eq_plainFields {f : CmdFields} {op : BitVec 8} {sp : Bool} (hrsv : f.rsv = 0) (hop : f.op = op)
    (halg : f.alg = 0) (hsp : f.sp = sp) : f = plainFields op sp := by
  cases f
  simp_all only [plainFields]

/-! ### When the field checks of the decoder pass (30_encoding.md R98) -/

theorem decodeNoSp_eq_instr {sp : Bool} {d : Decoded} {i : Instr} :
    decodeNoSp sp d = .instr i ↔ sp = false ∧ d = .instr i := by
  cases sp <;> simp [decodeNoSp]

theorem decodePlain_eq_instr {alg : BitVec 2} {i j : Instr} : decodePlain alg j = .instr i ↔ alg = 0 ∧ j = i := by
  unfold decodePlain
  split <;> simp_all

/-- The four values of ALG: three name an algorithm, 3 is reserved (30_encoding.md R91). -/
theorem alg_cases (alg : BitVec 2) : (∃ a : Alg, alg = a.bits) ∨ alg = 3 := by
  have hlt : alg.toNat < 4 := alg.isLt
  have hval : alg = 0 ∨ alg = 1 ∨ alg = 2 ∨ alg = 3 := by bv_omega
  rcases hval with h | h | h | h
  · exact .inl ⟨.sha256, h⟩
  · exact .inl ⟨.sha1, h⟩
  · exact .inl ⟨.md5, h⟩
  · exact .inr h

/-- A family of commands, one for each algorithm, is decoded by its ALG field. -/
theorem decodeAlg_eq_instr {alg : BitVec 2} {cmd : Alg → Instr} {i : Instr}
    (h : decodeAlg alg (cmd .sha256) (cmd .sha1) (cmd .md5) = .instr i) : ∃ a : Alg, alg = a.bits ∧ cmd a = i := by
  rcases alg_cases alg with ⟨a, rfl⟩ | rfl
  · refine ⟨a, rfl, Decoded.instr.inj (Eq.trans ?_ h)⟩
    cases a <;> rfl
  · cases h

/-! ### The decoder and the table of fields -/

/-- The rows of the table, each decoded by computation. -/
theorem decodeFields_fields (i : Instr) : decodeFields i.fields = .instr i := by
  cases i <;> rfl

section Inversion

variable {f : CmdFields} {op : BitVec 8} {i : Instr} (hrsv : f.rsv = 0) (hop : f.op.toNat = op.toNat)

include hrsv hop

/-- The branch of an op that uses ALG. -/
theorem eq_fields_of_decodeAlg {cmd : Alg → Instr} (hcmd : ∀ a, (cmd a).fields = algFields op a)
    (h : decodeNoSp f.sp (decodeAlg f.alg (cmd .sha256) (cmd .sha1) (cmd .md5)) = .instr i) : f = i.fields := by
  obtain ⟨hsp, hdec⟩ := decodeNoSp_eq_instr.mp h
  obtain ⟨a, halg, rfl⟩ := decodeAlg_eq_instr hdec
  rw [hcmd, eq_algFields hrsv (BitVec.eq_of_toNat_eq hop) halg hsp]

/-- The branch of an op that uses neither ALG nor SP. -/
theorem eq_fields_of_decodePlain {j : Instr} (hj : j.fields = plainFields op false)
    (h : decodeNoSp f.sp (decodePlain f.alg j) = .instr i) : f = i.fields := by
  obtain ⟨hsp, hdec⟩ := decodeNoSp_eq_instr.mp h
  obtain ⟨halg, rfl⟩ := decodePlain_eq_instr.mp hdec
  rw [hj, eq_plainFields hrsv (BitVec.eq_of_toNat_eq hop) halg hsp]

end Inversion

/-- The branch of HEX_ENC, the one op that uses SP. -/
theorem eq_fields_of_decodeHexEnc {f : CmdFields} {i : Instr} (hrsv : f.rsv = 0) (hop : f.op.toNat = 0x10)
    (h : decodePlain f.alg (if f.sp then .hexEncSp else .hexEnc) = .instr i) : f = i.fields := by
  obtain ⟨halg, rfl⟩ := decodePlain_eq_instr.mp h
  have hop' : f.op = 0x10 := BitVec.eq_of_toNat_eq hop
  cases hsp : f.sp
  · exact eq_plainFields hrsv hop' halg hsp
  · exact eq_plainFields hrsv hop' halg hsp

/-- What decodes to a command has exactly that command's fields: one case for each row of the opcode map. -/
theorem eq_fields_of_decodeFields {f : CmdFields} {i : Instr} (h : decodeFields f = .instr i) : f = i.fields := by
  unfold decodeFields at h
  split at h
  case isFalse => cases h
  case isTrue hrsv =>
    split at h
    case h_1 hop => exact eq_fields_of_decodePlain (op := 0x00) hrsv hop rfl h
    case h_2 hop => exact eq_fields_of_decodeAlg (op := 0x01) hrsv hop fields_hashInitOf h
    case h_3 hop => exact eq_fields_of_decodeAlg (op := 0x02) hrsv hop fields_hashBlockOf h
    case h_4 hop => exact eq_fields_of_decodeAlg (op := 0x03) hrsv hop fields_hashFinalOf h
    case h_5 hop => exact eq_fields_of_decodeAlg (op := 0x04) hrsv hop fields_hashOf h
    case h_6 hop => exact eq_fields_of_decodeAlg (op := 0x05) hrsv hop fields_hmacOf h
    case h_7 hop => exact eq_fields_of_decodePlain (op := 0x06) hrsv hop rfl h
    case h_8 hop => exact eq_fields_of_decodeHexEnc hrsv hop h
    case h_9 hop => exact eq_fields_of_decodePlain (op := 0x11) hrsv hop rfl h
    case h_10 hop => exact eq_fields_of_decodePlain (op := 0x12) hrsv hop rfl h
    case h_11 hop => exact eq_fields_of_decodePlain (op := 0x13) hrsv hop rfl h
    case h_12 => cases h

theorem decodeFields_eq_instr {f : CmdFields} {i : Instr} : decodeFields f = .instr i ↔ f = i.fields :=
  ⟨eq_fields_of_decodeFields, fun h => by rw [h, decodeFields_fields]⟩

/-- Settles O2, through the fields: `decodeFields` inverts the table of fields, and a word is its fields. -/
theorem decodeEncodeAgree : Obligations.DecodeEncodeAgree := fun w i =>
  calc decode w = .instr i
      ↔ fieldsOf w = i.fields := decodeFields_eq_instr
    _ ↔ w = encode i := fieldsOf_eq_iff

/-! ### The 22 words -/

theorem mem_allInstrs (i : Instr) : i ∈ allInstrs := by
  cases i <;> decide

/-- Settles O1: the table of R97 computes to the graph of the encoder over the 22 commands. -/
theorem legalWordsAreTheTable : Obligations.LegalWordsAreTheTable := by
  intro w i
  have htable : (w, i) ∈ allInstrs.map (fun j => (encode j, j)) ↔ w = encode i := by
    simp [mem_allInstrs, eq_comm]
  exact (decodeEncodeAgree w i).trans htable.symm

/-- Settles O3: each word is the encoding of its command. -/
theorem writtenWordsDecode : Obligations.WrittenWordsDecode :=
  ⟨(decodeEncodeAgree _ .nop).mpr rfl, (decodeEncodeAgree _ .hashBlockSha1).mpr rfl,
    (decodeEncodeAgree _ .hmacMd5).mpr rfl, (decodeEncodeAgree _ .hexEncSp).mpr rfl,
    (decodeEncodeAgree _ .b64Dec).mpr rfl⟩

/-! ### The legality predicate (30_encoding.md R96) -/

theorem algLegal_iff (f : CmdFields) : f.algLegal = true ↔
    if f.op ∈ ([0x01, 0x02, 0x03, 0x04, 0x05] : List (BitVec 8)) then f.alg ∈ ([0, 1, 2] : List (BitVec 2))
    else f.alg = 0 := by
  have huses : (1 ≤ f.op.toNat ∧ f.op.toNat ≤ 5) ↔ f.op ∈ ([0x01, 0x02, 0x03, 0x04, 0x05] : List (BitVec 8)) := by
    simp only [List.mem_cons, List.not_mem_nil, or_false]
    bv_omega
  have hthree : f.alg ≠ 3 ↔ f.alg ∈ ([0, 1, 2] : List (BitVec 2)) := by
    simp only [List.mem_cons, List.not_mem_nil, or_false]
    bv_omega
  unfold CmdFields.algLegal
  simp only [huses]
  split
  · exact decide_eq_true_iff.trans hthree
  · exact decide_eq_true_iff

theorem spLegal_iff (f : CmdFields) : f.spLegal = true ↔ if f.op = 0x10 then True else f.sp = false := by
  unfold CmdFields.spLegal
  split
  case isTrue hop => simp [hop]
  case isFalse hop => simpa using fun h => absurd h hop

/-- `CmdFields.wellFormed` with R96 written out. -/
theorem wellFormed_iff (f : CmdFields) : f.wellFormed = true ↔
    f.rsv = 0 ∧
      f.op ∈ ([0x00, 0x01, 0x02, 0x03, 0x04, 0x05, 0x06, 0x10, 0x11, 0x12, 0x13] : List (BitVec 8)) ∧
      (if f.op ∈ ([0x01, 0x02, 0x03, 0x04, 0x05] : List (BitVec 8)) then f.alg ∈ ([0, 1, 2] : List (BitVec 2))
        else f.alg = 0) ∧
      (if f.op = 0x10 then True else f.sp = false) := by
  rw [← algLegal_iff, ← spLegal_iff, CmdFields.wellFormed, CmdFields.rsvClear, CmdFields.opAssigned, assignedOps]
  simp only [Bool.and_eq_true, decide_eq_true_iff, List.contains_iff_mem, and_assoc]

/-- Every row of the table passes R96. -/
theorem fields_wellFormed (i : Instr) : i.fields.wellFormed = true := by
  cases i <;> rfl

/-- Legal fields with an op that uses ALG are a command's: ALG names the algorithm. -/
theorem exists_fields_of_algOp {f : CmdFields} (hrsv : f.rsv = 0)
    (hop : f.op ∈ ([0x01, 0x02, 0x03, 0x04, 0x05] : List (BitVec 8))) (halg : f.alg ∈ ([0, 1, 2] : List (BitVec 2)))
    (hsp : f.sp = false) : ∃ i : Instr, f = i.fields := by
  obtain ⟨a, ha⟩ | hthree := alg_cases f.alg
  · simp only [List.mem_cons, List.not_mem_nil, or_false] at hop
    rcases hop with h | h | h | h | h
    · exact ⟨hashInitOf a, by rw [fields_hashInitOf, eq_algFields hrsv h ha hsp]⟩
    · exact ⟨hashBlockOf a, by rw [fields_hashBlockOf, eq_algFields hrsv h ha hsp]⟩
    · exact ⟨hashFinalOf a, by rw [fields_hashFinalOf, eq_algFields hrsv h ha hsp]⟩
    · exact ⟨hashOf a, by rw [fields_hashOf, eq_algFields hrsv h ha hsp]⟩
    · exact ⟨hmacOf a, by rw [fields_hmacOf, eq_algFields hrsv h ha hsp]⟩
  · exact absurd halg (by rw [hthree]; decide)

/-- The legality predicate leaves no fields but a command's. -/
theorem exists_fields_of_wellFormed {f : CmdFields} (hf : f.wellFormed = true) : ∃ i : Instr, f = i.fields := by
  obtain ⟨hrsv, hop, halg, hsp⟩ := (wellFormed_iff f).mp hf
  by_cases huses : f.op ∈ ([0x01, 0x02, 0x03, 0x04, 0x05] : List (BitVec 8))
  · have hhex : f.op ≠ 0x10 := fun h => absurd (h ▸ huses) (by decide)
    rw [if_pos huses] at halg
    rw [if_neg hhex] at hsp
    exact exists_fields_of_algOp hrsv huses halg hsp
  · rw [if_neg huses] at halg
    by_cases hhex : f.op = 0x10
    · cases hs : f.sp
      · exact ⟨.hexEnc, eq_plainFields hrsv hhex halg hs⟩
      · exact ⟨.hexEncSp, eq_plainFields hrsv hhex halg hs⟩
    · rw [if_neg hhex] at hsp
      have hplain : f.op = 0x00 ∨ f.op = 0x06 ∨ f.op = 0x11 ∨ f.op = 0x12 ∨ f.op = 0x13 := by
        simp only [List.mem_cons, List.not_mem_nil, or_false] at hop huses
        tauto
      rcases hplain with h | h | h | h | h
      · exact ⟨.nop, eq_plainFields hrsv h halg hsp⟩
      · exact ⟨.ctCmp, eq_plainFields hrsv h halg hsp⟩
      · exact ⟨.hexDec, eq_plainFields hrsv h halg hsp⟩
      · exact ⟨.b64Enc, eq_plainFields hrsv h halg hsp⟩
      · exact ⟨.b64Dec, eq_plainFields hrsv h halg hsp⟩

/-- The decoder accepts exactly the legal fields (30_encoding.md R96). -/
theorem wellFormed_iff_decodes (f : CmdFields) : f.wellFormed = true ↔ ∃ i, decodeFields f = .instr i := by
  simp only [decodeFields_eq_instr]
  constructor
  · exact exists_fields_of_wellFormed
  · rintro ⟨i, rfl⟩
    exact fields_wellFormed i

/-! ### The step of an illegal word, and WAIT -/

/-- A pending word that is no command completes with ILLEGAL (40_control.md R125). -/
theorem engineStep_of_not_decodes {s : State} (h : ¬ ∃ i, decode s.cmd = .instr i) :
    engineStep s = .next (s.failed .illegal 0) := by
  unfold engineStep
  split
  case h_1 i hi => exact absurd ⟨i, hi⟩ h
  case h_2 => rfl

/-- Settles O4: the legality predicate is `CmdFields.wellFormed` on the word's fields, which the decoder accepts
exactly. -/
theorem illegalWordsCompleteIllegal : Obligations.IllegalWordsCompleteIllegal := by
  intro w op alg legal
  have hlegal : legal ↔ ∃ i, decode w = .instr i :=
    (wellFormed_iff (fieldsOf w)).symm.trans (wellFormed_iff_decodes (fieldsOf w))
  refine ⟨hlegal, fun s hidle => ⟨State.transact_wr32_idle_at hidle .cmd rfl rfl, fun hillegal => ?_⟩⟩
  exact engineStep_of_not_decodes (mt hlegal.mpr hillegal)

/-- BUSY is bit 0 of STATUS (10_state.md R25). -/
theorem State.statusWord_bit0 (s : State) : s.statusWord.getLsbD 0 = s.busy := by
  have hbusy := s.busy.toNat_lt
  apply Function.LeftInverse.injective Bool.ofNat_toNat
  rw [getLsbD_toNat, State.statusWord_toNat]
  omega

/-- Settles O11: bit 0 of the word that WAIT reads is BUSY. -/
theorem waitPollsStatus : Obligations.WaitPollsStatus := by
  intro s rest hhost
  rcases hostStep_cases s with ⟨hnil, _⟩ | ⟨x, rest', htxn, _⟩ | ⟨rest', hwait, hstep⟩
  · cases hhost.symm.trans hnil
  · cases hhost.symm.trans htxn
  · cases hhost.symm.trans hwait
    rw [hstep, State.statusWord_bit0]

end Sys2Proof.Machine
end

section
/-! Every command is its range check over one body (40_control.md R125), said once, and what a body changes and how it
ends. -/

namespace Sys2Proof.Machine

open Sys2Proof

/-! ### The body of each command -/

/-- `CommandBody s i t` says that t is what the body of command i makes of s: one case for each row of the opcode map,
the commands of the three algorithms together. -/
inductive CommandBody (s : State) : Instr → State → Prop where
  | nop : CommandBody s .nop (s.complete 0)
  | hashInit (alg : Alg) : CommandBody s (hashInitOf alg) (hashInitBody alg s)
  | hashBlock (alg : Alg) : CommandBody s (hashBlockOf alg) (hashBlockBody alg s)
  | hashFinal (alg : Alg) : CommandBody s (hashFinalOf alg) (hashFinalBody alg s)
  | hash (alg : Alg) : CommandBody s (hashOf alg) (hashBody alg s)
  | hmac (alg : Alg) : CommandBody s (hmacOf alg) (hmacBody alg s)
  | ctCmp : CommandBody s .ctCmp (ctCmpBody s)
  | hexEnc : CommandBody s .hexEnc (s.emit (hexEncode false s.src0Bytes) s)
  | hexEncSp : CommandBody s .hexEncSp (s.emit (hexEncode true s.src0Bytes) s)
  | hexDec : CommandBody s .hexDec (s.emitDecoded (hexDecode s.src0Bytes))
  | b64Enc : CommandBody s .b64Enc (s.emit (b64Encode s.src0Bytes) s)
  | b64Dec : CommandBody s .b64Dec (s.emitDecoded (b64Decode s.src0Bytes))

theorem CommandBody.total (i : Instr) (s : State) : ∃ t, CommandBody s i t := by
  cases i
  case nop => exact ⟨_, .nop⟩
  case hashInitSha256 => exact ⟨_, .hashInit .sha256⟩
  case hashInitSha1 => exact ⟨_, .hashInit .sha1⟩
  case hashInitMd5 => exact ⟨_, .hashInit .md5⟩
  case hashBlockSha256 => exact ⟨_, .hashBlock .sha256⟩
  case hashBlockSha1 => exact ⟨_, .hashBlock .sha1⟩
  case hashBlockMd5 => exact ⟨_, .hashBlock .md5⟩
  case hashFinalSha256 => exact ⟨_, .hashFinal .sha256⟩
  case hashFinalSha1 => exact ⟨_, .hashFinal .sha1⟩
  case hashFinalMd5 => exact ⟨_, .hashFinal .md5⟩
  case hashSha256 => exact ⟨_, .hash .sha256⟩
  case hashSha1 => exact ⟨_, .hash .sha1⟩
  case hashMd5 => exact ⟨_, .hash .md5⟩
  case hmacSha256 => exact ⟨_, .hmac .sha256⟩
  case hmacSha1 => exact ⟨_, .hmac .sha1⟩
  case hmacMd5 => exact ⟨_, .hmac .md5⟩
  case ctCmp => exact ⟨_, .ctCmp⟩
  case hexEnc => exact ⟨_, .hexEnc⟩
  case hexEncSp => exact ⟨_, .hexEncSp⟩
  case hexDec => exact ⟨_, .hexDec⟩
  case b64Enc => exact ⟨_, .b64Enc⟩
  case b64Dec => exact ⟨_, .b64Dec⟩

/-- The dispatch in terms of bodies: `exec` is the range check over the body. -/
theorem CommandBody.exec_eq {s t : State} {i : Instr} (h : CommandBody s i t) : exec i s = .next (s.checked i t) := by
  cases h
  case hashInit alg => cases alg <;> rfl
  case hashBlock alg => cases alg <;> rfl
  case hashFinal alg => cases alg <;> rfl
  case hash alg => cases alg <;> rfl
  case hmac alg => cases alg <;> rfl
  all_goals rfl

theorem CommandBody.exec_eq_body {s t : State} {i : Instr} (h : CommandBody s i t) (hok : s.operandsOk i = true) :
    exec i s = .next t := by
  rw [h.exec_eq, s.checked_ok i t hok]

/-- A command with an operand outside BUF does not reach its body (40_control.md R125). -/
theorem exec_of_operand_out_of_range {s : State} {i : Instr} (h : s.operandsOk i = false) :
    exec i s = .next (s.failed .range 0) := by
  obtain ⟨body, hbody⟩ := CommandBody.total i s
  rw [hbody.exec_eq, s.checked_fail i body h]
  rfl

/-! ### The code a body ends with -/

theorem State.emit_errCode (s : State) (out : Bytes) (staged : State) :
    (s.emit out staged).errCode = .ok ∨ (s.emit out staged).errCode = .dstOvf := by
  rcases s.emit_cases out staged with ⟨_, e⟩ | ⟨_, e⟩ <;> rw [e]
  · exact .inl rfl
  · exact .inr rfl

theorem State.emit_errCode_ne_range (s : State) (out : Bytes) (staged : State) :
    (s.emit out staged).errCode ≠ .range := by
  rcases s.emit_errCode out staged with e | e <;> rw [e] <;> decide

theorem State.emitDecoded_errCode_ne_range (s : State) (o : Option Bytes) : (s.emitDecoded o).errCode ≠ .range := by
  rcases s.emitDecoded_cases o with ⟨_, e⟩ | ⟨out, _, e⟩ <;> rw [e]
  · exact ErrCode.noConfusion
  · exact s.emit_errCode_ne_range out s

theorem hashBlockBody_errCode_ne_range (alg : Alg) (s : State) : (hashBlockBody alg s).errCode ≠ .range := by
  unfold hashBlockBody
  split <;> exact ErrCode.noConfusion

/-- RANGE comes from the range check alone. -/
theorem CommandBody.errCode_ne_range {s t : State} {i : Instr} (h : CommandBody s i t) : t.errCode ≠ .range := by
  cases h
  case nop => exact ErrCode.noConfusion
  case hashInit alg => exact ErrCode.noConfusion
  case hashBlock alg => exact hashBlockBody_errCode_ne_range alg s
  case hashFinal alg => exact s.emit_errCode_ne_range _ _
  case hash alg => exact s.emit_errCode_ne_range _ _
  case hmac alg => exact s.emit_errCode_ne_range _ _
  case ctCmp => exact ErrCode.noConfusion
  case hexEnc => exact s.emit_errCode_ne_range _ s
  case hexEncSp => exact s.emit_errCode_ne_range _ s
  case hexDec => exact s.emitDecoded_errCode_ne_range _
  case b64Enc => exact s.emit_errCode_ne_range _ s
  case b64Dec => exact s.emitDecoded_errCode_ne_range _

/-! ### The fields a body keeps -/

theorem State.emit_resultEq {s staged : State} (h : staged.resultEq = s.resultEq) (out : Bytes) :
    (s.emit out staged).resultEq = s.resultEq := by
  rcases s.emit_cases out staged with ⟨_, e⟩ | ⟨_, e⟩ <;> rw [e]
  · exact h
  · rfl

theorem State.emitDecoded_resultEq (s : State) (o : Option Bytes) : (s.emitDecoded o).resultEq = s.resultEq := by
  rcases s.emitDecoded_cases o with ⟨_, e⟩ | ⟨out, _, e⟩ <;> rw [e]
  · rfl
  · exact State.emit_resultEq rfl out

theorem hashBlockBody_resultEq (alg : Alg) (s : State) : (hashBlockBody alg s).resultEq = s.resultEq := by
  unfold hashBlockBody
  split <;> rfl

/-- The comparator is the one writer of RESULT (10_state.md R28). -/
theorem CommandBody.resultEq {s t : State} {i : Instr} (h : CommandBody s i t) (hi : i ≠ .ctCmp) :
    t.resultEq = s.resultEq := by
  cases h
  case nop => rfl
  case hashInit alg => rfl
  case hashBlock alg => exact hashBlockBody_resultEq alg s
  case hashFinal alg => exact State.emit_resultEq (s.stage_resultEq _ _) _
  case hash alg => exact State.emit_resultEq (s.stage_resultEq _ _) _
  case hmac alg => exact State.emit_resultEq (s.stage_resultEq _ _) _
  case ctCmp => exact absurd rfl hi
  case hexEnc => exact State.emit_resultEq rfl _
  case hexEncSp => exact State.emit_resultEq rfl _
  case hexDec => exact s.emitDecoded_resultEq _
  case b64Enc => exact State.emit_resultEq rfl _
  case b64Dec => exact s.emitDecoded_resultEq _

/-- STATE and MSGBITS, the registers of a hash in progress. -/
def State.hashRegs (s : State) : Chain × BitVec 64 := (s.chain, s.msgBits)

theorem State.hashRegs_eq_iff {s t : State} : t.hashRegs = s.hashRegs ↔ t.chain = s.chain ∧ t.msgBits = s.msgBits :=
  Prod.mk_inj

theorem State.emit_self_hashRegs (s : State) (out : Bytes) : (s.emit out s).hashRegs = s.hashRegs := by
  rcases s.emit_cases out s with ⟨_, e⟩ | ⟨_, e⟩ <;> rw [e] <;> rfl

theorem State.emitDecoded_hashRegs (s : State) (o : Option Bytes) : (s.emitDecoded o).hashRegs = s.hashRegs := by
  rcases s.emitDecoded_cases o with ⟨_, e⟩ | ⟨out, _, e⟩ <;> rw [e]
  · rfl
  · exact s.emit_self_hashRegs out

/-- The commands that neither hash nor authenticate: they write neither STATE nor MSGBITS. -/
def Instr.nonDigest : List Instr := [.nop, .ctCmp, .hexEnc, .hexEncSp, .hexDec, .b64Enc, .b64Dec]

theorem digestCommands_not_nonDigest (alg : Alg) :
    ∀ i ∈ [hashInitOf alg, hashBlockOf alg, hashFinalOf alg, hashOf alg, hmacOf alg], i ∉ Instr.nonDigest := by
  cases alg <;> decide

theorem CommandBody.hashRegs {s t : State} {i : Instr} (h : CommandBody s i t) (hi : i ∈ Instr.nonDigest) :
    t.hashRegs = s.hashRegs := by
  cases h
  case nop => rfl
  case ctCmp => rfl
  case hexEnc => exact s.emit_self_hashRegs _
  case hexEncSp => exact s.emit_self_hashRegs _
  case hexDec => exact s.emitDecoded_hashRegs _
  case b64Enc => exact s.emit_self_hashRegs _
  case b64Dec => exact s.emitDecoded_hashRegs _
  case hashInit alg => exact absurd hi (digestCommands_not_nonDigest alg _ (by simp))
  case hashBlock alg => exact absurd hi (digestCommands_not_nonDigest alg _ (by simp))
  case hashFinal alg => exact absurd hi (digestCommands_not_nonDigest alg _ (by simp))
  case hash alg => exact absurd hi (digestCommands_not_nonDigest alg _ (by simp))
  case hmac alg => exact absurd hi (digestCommands_not_nonDigest alg _ (by simp))

/-- The range check keeps whatever its error completion and the body keep. -/
theorem State.checked_keeps {α : Type} {s body : State} (i : Instr) (field : State → α)
    (hfail : field (s.raiseError .range 0) = field s) (hbody : field body = field s) :
    field (s.checked i body) = field s := by
  rcases s.checked_cases i body with ⟨_, e⟩ | ⟨_, e⟩ <;> rw [e]
  · exact hbody
  · exact hfail

/-! ### What the shape of a command's result says -/

theorem CommandResult.idle_done {s t : State} (h : CommandResult s t) : t.busy = false ∧ t.done = true := by
  rcases h with ⟨c, b, eq, out, n, -, -, -, rfl⟩ | ⟨e, n, -, rfl⟩
  · exact ⟨rfl, rfl⟩
  · exact ⟨rfl, rfl⟩

theorem CommandResult.frame {s t : State} (h : CommandResult s t) : CommandFrame s t := by
  rcases h with ⟨c, b, eq, out, n, -, -, -, rfl⟩ | ⟨e, n, -, rfl⟩
  · constructor <;> rfl
  · constructor <;> rfl

theorem recordedLength_of_ne_dstOvf {code : ErrCode} (h : code ≠ .dstOvf) (needed : Nat) :
    recordedLength code needed = 0 :=
  if_neg h

/-- A result with an error code is the error completion. -/
theorem CommandResult.eq_failed {s t : State} (h : CommandResult s t) (hcode : t.errCode ≠ .ok) :
    t = s.failed t.errCode t.outLen ∧ (t.errCode ≠ .dstOvf → t.outLen = 0) := by
  rcases h with ⟨c, b, eq, out, n, -, -, -, rfl⟩ | ⟨e, n, -, rfl⟩
  · exact absurd rfl hcode
  · exact ⟨rfl, fun hne => recordedLength_of_ne_dstOvf hne n⟩

end Sys2Proof.Machine
end

section
/-! When a codec or digest output does not fit: the length that OUT_LEN records (40_control.md R127, R130). -/

namespace Sys2Proof.Machine

open Sys2Proof

/-! ### The decoders on well-formed text -/

theorem hexVal_isSome_iff (c : Byte) : (hexVal c).isSome = true ↔
    (0x30 ≤ c.toNat ∧ c.toNat ≤ 0x39) ∨ (0x61 ≤ c.toNat ∧ c.toNat ≤ 0x66) ∨ (0x41 ≤ c.toNat ∧ c.toNat ≤ 0x46) := by
  unfold hexVal
  split_ifs <;> simp only [Option.isSome_some, Option.isSome_none, true_iff, Bool.false_eq_true, false_iff] <;> omega

/-- Every text of k digit pairs decodes, to k bytes (41_codec.md R155). -/
theorem hexDecode_of_digits (m : Bytes) {k : Nat} (hlen : m.length = 2 * k)
    (hdigits : ∀ c ∈ m, (hexVal c).isSome = true) : ∃ out, hexDecode m = some out ∧ out.length = k := by
  fun_induction hexDecode m generalizing k with
  | case1 => exact ⟨[], rfl, by simp only [List.length_nil] at hlen ⊢; omega⟩
  | case2 => simp only [List.length_cons, List.length_nil] at hlen; omega
  | case3 h l t ih =>
    simp only [List.mem_cons, forall_eq_or_imp] at hdigits
    obtain ⟨hh, hl, ht⟩ := hdigits
    obtain ⟨x, hx⟩ := Option.isSome_iff_exists.mp hh
    obtain ⟨y, hy⟩ := Option.isSome_iff_exists.mp hl
    cases k with
    | zero => simp at hlen
    | succ k =>
      obtain ⟨out, hout, hk⟩ := ih (k := k) (by simp only [List.length_cons] at hlen; omega) ht
      exact ⟨BitVec.ofNat 8 (x * 16 + y) :: out, by simp [hx, hy, hout], by simp [hk]⟩

/-- A whole group's quartet decodes to the group (41_codec.md R160, R165). -/
theorem b64Quartet_encoded (a b c : Byte) :
    b64Quartet (b64Ch (b64Sextet (b64Value a b c) 0)) (b64Ch (b64Sextet (b64Value a b c) 1))
      (b64Ch (b64Sextet (b64Value a b c) 2)) (b64Ch (b64Sextet (b64Value a b c) 3)) = some [a, b, c] := by
  simp only [b64Quartet, b64Val_b64Ch _ (b64Sextet_lt _ _), Option.bind_some, Option.map_some,
    b64Sextet_sum _ (b64Value_lt a b c), b64Bytes_b64Value]

/-- A group of two bytes leaves the low byte of its value 0, so its fourth sextet is 0. -/
theorem b64PadOne_encoded (a b : Byte) :
    b64PadOne (b64Ch (b64Sextet (b64Value a b 0) 0)) (b64Ch (b64Sextet (b64Value a b 0) 1))
      (b64Ch (b64Sextet (b64Value a b 0) 2)) = some [a, b] := by
  have hlow : b64Value a b 0 % 2 ^ 8 = 0 := by simp only [b64Value, BitVec.ofNat_eq_ofNat, BitVec.toNat_ofNat]; omega
  have hlast : b64Sextet (b64Value a b 0) 3 = 0 := by simp only [b64Sextet]; omega
  have hsum := b64Sextet_sum _ (b64Value_lt a b 0)
  rw [hlast, Nat.add_zero] at hsum
  simp only [b64PadOne, b64Val_b64Ch _ (b64Sextet_lt _ _), Option.bind_some, hsum, b64Bytes_b64Value, if_pos hlow,
    List.take_succ_cons, List.take_zero]

/-- A group of one byte leaves the low two bytes of its value 0, so its last two sextets are 0. -/
theorem b64PadTwo_encoded (a : Byte) :
    b64PadTwo (b64Ch (b64Sextet (b64Value a 0 0) 0)) (b64Ch (b64Sextet (b64Value a 0 0) 1)) = some [a] := by
  have hlow : b64Value a 0 0 % 2 ^ 16 = 0 := by simp only [b64Value, BitVec.ofNat_eq_ofNat, BitVec.toNat_ofNat]; omega
  have hthird : b64Sextet (b64Value a 0 0) 2 = 0 := by simp only [b64Sextet]; omega
  have hlast : b64Sextet (b64Value a 0 0) 3 = 0 := by simp only [b64Sextet]; omega
  have hsum := b64Sextet_sum _ (b64Value_lt a 0 0)
  rw [hthird, hlast, Nat.zero_mul, Nat.add_zero] at hsum
  simp only [b64PadTwo, b64Val_b64Ch _ (b64Sextet_lt _ _), Option.bind_some, hsum, b64Bytes_b64Value, if_pos hlow,
    List.take_succ_cons, List.take_zero]

theorem b64Encode_eq_nil_iff (m : Bytes) : b64Encode m = [] ↔ m = [] := by
  rw [← List.length_eq_zero_iff, ← List.length_eq_zero_iff, b64Encode_length]
  omega

/-- B64_DEC inverts B64_ENC (41_codec.md R171, first law). -/
theorem b64Decode_b64Encode (m : Bytes) : b64Decode (b64Encode m) = some m := by
  fun_induction b64Encode m with
  | case1 => rfl
  | case2 a => simp only [b64Decode, if_true, b64Last, b64PadTwo_encoded]
  | case3 a b =>
    have hne : b64Ch (b64Sextet (b64Value a b 0) 2) ≠ b64PadChar := b64Ch_ne_pad _ (b64Sextet_lt _ _)
    simp only [b64Decode, if_true, b64Last, if_neg hne, b64PadOne_encoded]
  | case4 a b c t ih =>
    have hne : b64Ch (b64Sextet (b64Value a b c) 3) ≠ b64PadChar := b64Ch_ne_pad _ (b64Sextet_lt _ _)
    simp only [List.cons_append, List.nil_append, b64Decode, b64Encode_eq_nil_iff]
    split
    case isTrue ht => rw [b64Last, if_neg hne, b64Quartet_encoded, ht]
    case isFalse => rw [b64Quartet_encoded, ih]; rfl

/-! ### Overflow -/

theorem State.emit_overflow_failed {s : State} {out : Bytes} {n : Nat} (hlen : out.length = n)
    (hcap : s.dstCap.toNat < n) (staged : State) :
    s.emit out staged = s.failed .dstOvf (BitVec.ofNat 32 n) := by
  subst hlen
  exact s.emit_overflow out staged hcap

theorem State.emitDecoded_overflow_failed {s : State} {o : Option Bytes} {out : Bytes} {n : Nat} (ho : o = some out)
    (hlen : out.length = n) (hcap : s.dstCap.toNat < n) :
    s.emitDecoded o = s.failed .dstOvf (BitVec.ofNat 32 n) := by
  subst ho
  exact State.emit_overflow_failed hlen hcap s

theorem operandsOk_of_src0_dst {s : State} {i : Instr} (hops : operandsOf i = [.src0, .dst]) (h0 : s.src0Fits)
    (hd : s.dstFits) : s.operandsOk i = true :=
  (s.operandsOk_iff i).mpr ⟨fun _ => h0, fun h1 => absurd h1 (by rw [hops]; decide), fun _ => hd⟩

theorem operandsOf_hashFinalOf (alg : Alg) : operandsOf (hashFinalOf alg) = [.src0, .dst] := by cases alg <;> rfl

theorem operandsOf_hashOf (alg : Alg) : operandsOf (hashOf alg) = [.src0, .dst] := by cases alg <;> rfl

/-- Settles O17: each of the three bodies emits a digest of the algorithm's length. -/
theorem digestOverflowRecordsNeededLength : Obligations.DigestOverflowRecordsNeededLength := by
  rintro alg i s (rfl | rfl | rfl) h0 hd h1 hcap
  · rw [(CommandBody.hashFinal alg).exec_eq_body (operandsOk_of_src0_dst (operandsOf_hashFinalOf alg) h0 hd),
      hashFinalBody, State.emit_overflow_failed (digest_length alg _) hcap]
  · rw [(CommandBody.hash alg).exec_eq_body (operandsOk_of_src0_dst (operandsOf_hashOf alg) h0 hd),
      hashBody, State.emit_overflow_failed (hashFn_length alg _) hcap]
  · have hok : s.operandsOk (hmacOf alg) = true := (s.operandsOk_iff _).mpr ⟨fun _ => h0, fun _ => h1 rfl, fun _ => hd⟩
    rw [(CommandBody.hmac alg).exec_eq_body hok, hmacBody, hmacFn,
      State.emit_overflow_failed (hashFn_length alg _) hcap]

/-- Settles O41: the length of each encoder's text, and of what each decoder makes of a well-formed text. -/
theorem codecOverflowRecordsNeededLength : Obligations.CodecOverflowRecordsNeededLength := by
  intro s h0 hd n
  refine ⟨fun hcap => ?_, fun hcap => ?_, fun hcap => ?_, fun k hn hdigits hcap => ?_, fun b htext hcap => ?_⟩
  · have hlen : (hexEncode false s.src0Bytes).length = 2 * n := by rw [hexEncode_false_length, s.src0Bytes_length]
    rw [CommandBody.hexEnc.exec_eq_body (operandsOk_of_src0_dst rfl h0 hd), State.emit_overflow_failed hlen hcap]
  · have hlen : (hexEncode true s.src0Bytes).length = 3 * n - 1 := by rw [hexEncode_true_length, s.src0Bytes_length]
    rw [CommandBody.hexEncSp.exec_eq_body (operandsOk_of_src0_dst rfl h0 hd), State.emit_overflow_failed hlen hcap]
  · have hlen : (b64Encode s.src0Bytes).length = 4 * ((n + 2) / 3) := by rw [b64Encode_length, s.src0Bytes_length]
    rw [CommandBody.b64Enc.exec_eq_body (operandsOk_of_src0_dst rfl h0 hd), State.emit_overflow_failed hlen hcap]
  · have hvals : ∀ c ∈ s.src0Bytes, (hexVal c).isSome = true := by
      intro c hc
      obtain ⟨j, hj, rfl⟩ := List.mem_map.mp hc
      exact (hexVal_isSome_iff _).mpr (hdigits j (List.mem_range.mp hj))
    obtain ⟨out, hout, hk⟩ := hexDecode_of_digits s.src0Bytes (s.src0Bytes_length.trans hn) hvals
    rw [CommandBody.hexDec.exec_eq_body (operandsOk_of_src0_dst rfl h0 hd),
      State.emitDecoded_overflow_failed hout hk hcap]
  · have htext' : s.src0Bytes = b64Encode b := (base64Text_iff _ b).mp htext
    have hout : b64Decode s.src0Bytes = some b := by rw [htext', b64Decode_b64Encode]
    rw [CommandBody.b64Dec.exec_eq_body (operandsOk_of_src0_dst rfl h0 hd),
      State.emitDecoded_overflow_failed hout rfl hcap]

end Sys2Proof.Machine
end

section
/-! Control: the ENGINE's turn, completion, the range check, NOP and the accept (40_control.md R121 to R131). -/

namespace Sys2Proof.Machine

open Sys2Proof

/-! ### The ENGINE's turn -/

theorem engineStep_of_decodes {s : State} {i : Instr} (h : decode s.cmd = .instr i) : engineStep s = exec i s := by
  simp only [engineStep, h]

theorem step_of_engine_turn {s : State} (h : s.nextAgent = some .engine) : step s = engineStep s.takeTurn := by
  simp only [step, transition, h]

theorem State.contested_of_host_nil {s : State} (h : s.host = []) : s.contested = false := by
  simp [State.contested, h]

theorem State.contested_of_host_ne_nil {s : State} (hbusy : s.busy = true) (h : s.host ≠ []) : s.contested = true := by
  simp [State.contested, hbusy, h]

/-- A pending command alone is run, and keeps the schedule. -/
theorem step_of_pending_alone {s : State} (hbusy : s.busy = true) (hhost : s.host = []) : step s = engineStep s := by
  have hc := State.contested_of_host_nil hhost
  have hnext : s.nextAgent = some .engine := by simp [State.nextAgent, hc, hbusy]
  have hturn : s.takeTurn = s := by simp [State.takeTurn, hc]
  rw [step_of_engine_turn hnext, hturn]

/-- A pending command whose turn it is against the host is run, and the turn is used up. -/
theorem step_of_pending_turn {s : State} (hbusy : s.busy = true) (hhost : s.host ≠ [])
    (hturns : s.turns.headD .engine = .engine) : step s = engineStep { s with turns := s.turns.tail } := by
  have hc := State.contested_of_host_ne_nil hbusy hhost
  have hnext : s.nextAgent = some .engine := by simp only [State.nextAgent, hc, if_true, hturns]
  have hturn : s.takeTurn = { s with turns := s.turns.tail } := if_pos hc
  rw [step_of_engine_turn hnext, hturn]

/-- Settles O5, by whether the host has an item left. -/
theorem stepRunsDecodedCommand : Obligations.StepRunsDecodedCommand := by
  intro s i hbusy hdec
  constructor
  · intro hhost
    rw [step_of_pending_alone hbusy hhost, engineStep_of_decodes hdec]
  · intro hhost hturns
    rw [step_of_pending_turn hbusy hhost hturns]
    exact engineStep_of_decodes hdec

/-- Settles O6: a step is an ENGINE step, a host step or none, and an ENGINE step has the shape of a command's result. -/
theorem stepAlwaysAnswersNext : Obligations.StepAlwaysAnswersNext := by
  intro s
  constructor
  · rcases step_cases s with ⟨_, e⟩ | ⟨_, e⟩ | ⟨_, _, e⟩
    · obtain ⟨t, ht, _⟩ := engineStep_result s.takeTurn
      exact ⟨t, e.trans ht⟩
    · exact ⟨_, e⟩
    · exact ⟨s, e⟩
  · obtain ⟨t, ht, hres⟩ := engineStep_result s
    exact ⟨t, ht, hres.idle_done⟩

/-! ### Completion -/

/-- Settles O12: by the shape of a command's result. -/
theorem failedCommandChangesNothingElse : Obligations.FailedCommandChangesNothingElse := by
  intro i s t hexec hcode
  obtain ⟨u, hu, hres⟩ := exec_result i s
  obtain rfl : u = t := Host.Outcome.next.inj (hu.symm.trans hexec)
  exact hres.eq_failed hcode

/-- Settles O13: the frame by the shape of a command's result, RESULT, STATE and MSGBITS by the command's body. -/
theorem everyCommandKeepsTheFrame : Obligations.EveryCommandKeepsTheFrame := by
  intro i s
  obtain ⟨body, hbody⟩ := CommandBody.total i s
  obtain ⟨t, ht, hres⟩ := exec_result i s
  obtain rfl : s.checked i body = t := Host.Outcome.next.inj (hbody.exec_eq.symm.trans ht)
  obtain ⟨hbusy, hdone⟩ := hres.idle_done
  refine ⟨_, ht, hbusy, hdone, hres.frame, fun hi => ?_, fun hi => ?_⟩
  · exact State.checked_keeps i State.resultEq rfl (hbody.resultEq hi)
  · exact State.hashRegs_eq_iff.mp (State.checked_keeps i State.hashRegs rfl (hbody.hashRegs hi))

/-! ### The range check -/

theorem src0_mem_operandsOf_iff (i : Instr) : Operand.src0 ∈ operandsOf i ↔
    i ∉ [Instr.nop, .hashInitSha256, .hashInitSha1, .hashInitMd5] := by
  cases i <;> decide

theorem src1_mem_operandsOf_iff (i : Instr) : Operand.src1 ∈ operandsOf i ↔
    i ∈ [Instr.hmacSha256, .hmacSha1, .hmacMd5, .ctCmp] := by
  cases i <;> decide

theorem dst_mem_operandsOf_iff (i : Instr) : Operand.dst ∈ operandsOf i ↔
    i ∈ [Instr.hashFinalSha256, .hashFinalSha1, .hashFinalMd5, .hashSha256, .hashSha1, .hashMd5,
      .hmacSha256, .hmacSha1, .hmacMd5, .hexEnc, .hexEncSp, .hexDec, .b64Enc, .b64Dec] := by
  cases i <;> decide

/-- `State.operandsOk_iff`, negated. -/
theorem State.operandsOk_eq_false_iff (s : State) (i : Instr) : s.operandsOk i = false ↔
    (Operand.src0 ∈ operandsOf i ∧ s.bufSize < s.src0Addr.toNat + s.src0Len.toNat) ∨
      (Operand.src1 ∈ operandsOf i ∧ s.bufSize < s.src1Addr.toNat + s.src1Len.toNat) ∨
      (Operand.dst ∈ operandsOf i ∧ s.bufSize < s.dstAddr.toNat + s.dstCap.toNat) := by
  rw [← Bool.not_eq_true, s.operandsOk_iff i]
  simp only [not_and_or, Classical.not_imp, Nat.not_le]

/-- Settles O16: the statement's three ranges are the operands of the command, and no body ends in RANGE. -/
theorem rangeErrorExactly : Obligations.RangeErrorExactly := by
  intro i s src0 src1 dst bad
  have hbad : bad ↔ s.operandsOk i = false := by
    rw [s.operandsOk_eq_false_iff, src0_mem_operandsOf_iff, src1_mem_operandsOf_iff, dst_mem_operandsOf_iff]
  refine ⟨fun h => exec_of_operand_out_of_range (hbad.mp h), fun h => ?_⟩
  have hok : s.operandsOk i = true := by simpa using mt hbad.mpr h
  obtain ⟨body, hbody⟩ := CommandBody.total i s
  exact ⟨body, hbody.exec_eq_body hok, hbody.errCode_ne_range⟩

/-! ### NOP -/

theorem eq_nop_of_op_zero {i : Instr} (h : i.fields.op = 0) : i = .nop := by
  revert h
  cases i <;> decide

/-- A word other than 0 with OP 0 is no command, because NOP is the only command with OP 0. -/
theorem not_decodes_of_op_zero {w : Word} (hne : w ≠ 0) (hop : w.extractLsb' 0 8 = 0) :
    ¬ ∃ i, decode w = .instr i := by
  rintro ⟨i, hi⟩
  have hfields : fieldsOf w = i.fields := decodeFields_eq_instr.mp hi
  have hnop : i = .nop := eq_nop_of_op_zero (by rw [← hfields]; exact hop)
  subst hnop
  exact hne ((decodeEncodeAgree w .nop).mp hi)

/-- Settles O19: NOP has no operand to check, and every other word with OP 0 is illegal. -/
theorem nopCompletes : Obligations.NopCompletes := by
  refine ⟨rfl, fun s => ⟨s.complete 0, rfl, CommandBody.nop.exec_eq_body rfl, ?_⟩, fun s hne hop => ?_⟩
  · exact Bool.true_and s.irqEn
  · exact engineStep_of_not_decodes (not_decodes_of_op_zero hne hop)

/-! ### The accept -/

/-- Settles O46, by BUSY. -/
theorem cmdWriteAccepts : Obligations.CmdWriteAccepts := by
  refine fun s w => ⟨fun hidle => State.transact_wr32_idle_at hidle .cmd rfl rfl, fun hbusy => ?_⟩
  have hcmd : s.writeOffset 0x010 w = s.setOvr := State.writeOffset_dropped hbusy (by decide) (by decide) w
  exact (transact_wr32_reg s .cmd w).trans (by rw [Reg.offset, hcmd, State.setOvr])

end Sys2Proof.Machine
end

section
/-! The codec commands: what a command that emits an output leaves, the texts digit by digit and quartet by quartet, and
the round trips (41_codec.md R150 to R172). -/

namespace Sys2Proof.Machine

open Sys2Proof

/-! ### How a codec command ends -/

/-- What a command leaves that stages nothing but its output: the success completion with the output at the destination
(40_control.md R128, R130). -/
structure Emitted (s t : State) (out : Bytes) : Prop where
  completed : Completed t .ok out.length
  frame : CommandFrame s t
  resultEq : t.resultEq = s.resultEq
  chain : t.chain = s.chain
  msgBits : t.msgBits = s.msgBits
  room : out.length ≤ s.dstCap.toNat
  buf : t.buf = s.buf.writeBytes s.dstAddr.toNat out

theorem State.emit_emitted {s : State} {out : Bytes} (hroom : out.length ≤ s.dstCap.toNat) :
    Emitted s (s.emit out s) out := by
  have hword : out.length < 2 ^ 32 := lt_of_le_of_lt hroom s.dstCap.isLt
  have houtLen : (BitVec.ofNat 32 out.length).toNat = out.length := by rw [BitVec.toNat_ofNat, Nat.mod_eq_of_lt hword]
  rw [s.emit_ok out s hroom]
  exact ⟨⟨rfl, houtLen, rfl, rfl⟩, by constructor <;> rfl, rfl, rfl, rfl, hroom, rfl⟩

theorem State.emitted_of_emit_ok {s : State} {out : Bytes} (hok : (s.emit out s).errCode = .ok) :
    Emitted s (s.emit out s) out := by
  rcases s.emit_cases out s with ⟨hroom, _⟩ | ⟨_, e⟩
  · exact State.emit_emitted hroom
  · rw [e] at hok
    cases hok

theorem Emitted.bufWritten {s t : State} {out : Bytes} (h : Emitted s t out) :
    BufWritten s t s.dstAddr.toNat out := by
  constructor
  · intro k hk
    rw [h.buf, Memory.read_writeBytes_inside out _ _ k hk]
  · intro x hx
    rw [h.buf, Memory.read_writeBytes_outside out _ _ x hx]

/-- The forward direction: ranges inside BUF and room for the output. -/
theorem CommandBody.emitted {s : State} {i : Instr} {out : Bytes} (hbody : CommandBody s i (s.emit out s))
    (hops : operandsOf i = [.src0, .dst]) (h0 : s.src0Fits) (hd : s.dstFits) (hroom : out.length ≤ s.dstCap.toNat) :
    ∃ t, exec i s = .next t ∧ Emitted s t out :=
  ⟨_, hbody.exec_eq_body (operandsOk_of_src0_dst hops h0 hd), State.emit_emitted hroom⟩

/-- The completion of a command that emits n bytes, with whatever `inside` says of the bytes it wrote. -/
theorem CommandBody.exec_emits {s : State} {i : Instr} {out : Bytes} {n : Nat}
    (hbody : CommandBody s i (s.emit out s)) (hops : operandsOf i = [.src0, .dst]) (h0 : s.src0Fits) (hd : s.dstFits)
    (hlen : out.length = n) (hroom : n ≤ s.dstCap.toNat) {inside : State → Prop}
    (hinside : ∀ t : State, (∀ k, k < n → t.buf.read (s.dstAddr.toNat + k) = out.getD k 0) → inside t) :
    ∃ t, exec i s = .next t ∧ Completed t .ok n ∧ CommandFrame s t ∧
      t.resultEq = s.resultEq ∧ t.chain = s.chain ∧ t.msgBits = s.msgBits ∧ inside t ∧
      ∀ x, x < s.dstAddr.toNat ∨ s.dstAddr.toNat + n ≤ x → t.buf.read x = s.buf.read x := by
  subst hlen
  obtain ⟨t, ht, h⟩ := hbody.emitted hops h0 hd hroom
  obtain ⟨hin, hout⟩ := h.bufWritten
  exact ⟨t, ht, h.completed, h.frame, h.resultEq, h.chain, h.msgBits, hinside t hin, hout⟩

/-- A command that completes OK passed its range check and ran its body. -/
theorem CommandBody.of_exec_ok {s body t : State} {i : Instr} (hbody : CommandBody s i body)
    (hexec : exec i s = .next t) (hok : t.errCode = .ok) : s.operandsOk i = true ∧ t = body := by
  obtain rfl : s.checked i body = t := Host.Outcome.next.inj (hbody.exec_eq.symm.trans hexec)
  rcases s.checked_cases i body with ⟨hops, e⟩ | ⟨_, e⟩
  · exact ⟨hops, e⟩
  · rw [e] at hok
    cases hok

/-- A decoder that accepts its text emits the bytes. -/
theorem CommandBody.hexDec_of_some {s : State} {out : Bytes} (hdec : hexDecode s.src0Bytes = some out) :
    CommandBody s .hexDec (s.emit out s) := by
  have hbody := CommandBody.hexDec (s := s)
  rwa [hdec] at hbody

theorem CommandBody.b64Dec_of_some {s : State} {out : Bytes} (hdec : b64Decode s.src0Bytes = some out) :
    CommandBody s .b64Dec (s.emit out s) := by
  have hbody := CommandBody.b64Dec (s := s)
  rwa [hdec] at hbody

/-- A decoder whose text is malformed ends in DECODE, before the capacity is looked at (40_control.md R126). -/
theorem CommandBody.exec_eq_decode_error {s : State} {i : Instr} {o : Option Bytes}
    (hbody : CommandBody s i (s.emitDecoded o)) (hops : operandsOf i = [.src0, .dst]) (h0 : s.src0Fits)
    (hd : s.dstFits) (hnone : o = none) : exec i s = .next (s.failed .decode 0) := by
  subst hnone
  exact hbody.exec_eq_body (operandsOk_of_src0_dst hops h0 hd)

/-! ### The source bytes one by one -/

theorem State.src0Bytes_getD (s : State) {k : Nat} (hk : k < s.src0Len.toNat) :
    s.src0Bytes.getD k 0 = s.buf.read (s.src0Addr.toNat + k) :=
  Memory.readBytes_getD _ _ _ k hk

/-- The source bytes as numbers, with zeros after the end, as R160 fills the last group. -/
theorem State.src0Bytes_getD_toNat (s : State) (k : Nat) : (s.src0Bytes.getD k 0).toNat =
    if k < s.src0Len.toNat then (s.buf.read (s.src0Addr.toNat + k)).toNat else 0 := by
  split_ifs with hk
  · rw [s.src0Bytes_getD hk]
  · rw [List.getD_eq_default _ _ (by rw [s.src0Bytes_length]; omega)]
    rfl

theorem State.mem_src0Bytes (s : State) (c : Byte) :
    c ∈ s.src0Bytes ↔ ∃ k, k < s.src0Len.toNat ∧ s.buf.read (s.src0Addr.toNat + k) = c := by
  simp only [State.src0Bytes, Memory.readBytes, List.mem_map, List.mem_range]

/-! ### A second command on the output of a first -/

/-- The host points the source of the next command at an output: s began the first command, t ended it, s' begins the
next one. -/
structure ReadsOutput (s t s' : State) : Prop where
  bufSize : s'.bufSize = s.bufSize
  buf : s'.buf = t.buf
  src0Addr : s'.src0Addr = s.dstAddr
  src0Len : s'.src0Len = t.outLen

theorem Emitted.src0Bytes_next {s t s' : State} {out : Bytes} (h : Emitted s t out) (hnext : ReadsOutput s t s') :
    s'.src0Bytes = out := by
  rw [State.src0Bytes, hnext.buf, hnext.src0Addr, hnext.src0Len, h.completed.outLen, h.buf,
    Memory.readBytes_writeBytes]

theorem Emitted.src0Fits_next {s t s' : State} {out : Bytes} (h : Emitted s t out) (hd : s.dstFits)
    (hnext : ReadsOutput s t s') : s'.src0Fits := by
  have hroom := h.room
  simp only [State.src0Fits, State.dstFits, State.fits] at hd ⊢
  rw [hnext.bufSize, hnext.src0Addr, hnext.src0Len, h.completed.outLen]
  omega

/-- The shape of every round trip: the second command's body turns the first one's output back into its source. -/
theorem CommandBody.round_trip {s t s' : State} {i i' : Instr} {out : Bytes}
    (hfirst : CommandBody s i (s.emit out s)) (hi : Operand.dst ∈ operandsOf i)
    (hexec : exec i s = .next t) (hok : t.errCode = .ok)
    (hnext : ReadsOutput s t s') (hd' : s'.dstFits) (hroom : s.src0Len.toNat ≤ s'.dstCap.toNat)
    (hi' : operandsOf i' = [.src0, .dst])
    (hsecond : s'.src0Bytes = out → CommandBody s' i' (s'.emit s.src0Bytes s')) :
    ∃ u, exec i' s' = .next u ∧ Completed u .ok s.src0Len.toNat ∧ BufWritten s' u s'.dstAddr.toNat s.src0Bytes := by
  obtain ⟨hops, rfl⟩ := hfirst.of_exec_ok hexec hok
  have hemit : Emitted s (s.emit out s) out := State.emitted_of_emit_ok hok
  have h0' : s'.src0Fits := hemit.src0Fits_next (dstFits_of_operandsOk s i hi hops) hnext
  obtain ⟨u, hu, hout⟩ := (hsecond (hemit.src0Bytes_next hnext)).emitted hi' h0' hd' (by rwa [s.src0Bytes_length])
  exact ⟨u, hu, by simpa only [s.src0Bytes_length] using hout.completed, hout.bufWritten⟩

/-! ### The hex text -/

/-- The two digits of byte i (41_codec.md R150). -/
theorem hexEncode_false_getD (m : Bytes) {i : Nat} (hi : i < m.length) :
    (hexEncode false m).getD (2 * i) 0 = hexCh ((m.getD i 0).toNat / 16) ∧
      (hexEncode false m).getD (2 * i + 1) 0 = hexCh ((m.getD i 0).toNat % 16) := by
  induction m generalizing i with
  | nil => cases hi
  | cons b m ih =>
    rw [hexEncode_false_cons]
    cases i with
    | zero => exact ⟨rfl, rfl⟩
    | succ i => exact ih (Nat.lt_of_succ_lt_succ hi)

theorem hexEncode_true_cons_cons (b c : Byte) (m : Bytes) :
    hexEncode true (b :: c :: m) = hexPair b ++ 0x20 :: hexEncode true (c :: m) := by
  simp [hexEncode]

/-- The two digits of byte i, and the space before the next pair (41_codec.md R151). -/
theorem hexEncode_true_getD (m : Bytes) {i : Nat} (hi : i < m.length) :
    (hexEncode true m).getD (3 * i) 0 = hexCh ((m.getD i 0).toNat / 16) ∧
      (hexEncode true m).getD (3 * i + 1) 0 = hexCh ((m.getD i 0).toNat % 16) ∧
      (i + 1 < m.length → (hexEncode true m).getD (3 * i + 2) 0 = 0x20) := by
  induction m generalizing i with
  | nil => cases hi
  | cons b m ih =>
    cases m with
    | nil =>
      obtain rfl : i = 0 := Nat.lt_one_iff.mp hi
      exact ⟨rfl, rfl, fun h => absurd h (Nat.lt_irrefl 1)⟩
    | cons c m =>
      rw [hexEncode_true_cons_cons]
      cases i with
      | zero => exact ⟨rfl, rfl, fun _ => rfl⟩
      | succ i =>
        obtain ⟨hhigh, hlow, hspace⟩ := ih (Nat.lt_of_succ_lt_succ hi)
        exact ⟨hhigh, hlow, fun h => hspace (Nat.lt_of_succ_lt_succ h)⟩

/-- A text that decodes has two digits for each byte of the output, the high one first (41_codec.md R155). -/
theorem hexDecode_getD {m out : Bytes} (hdec : hexDecode m = some out) {k : Nat} (hk : k < out.length) :
    ∃ h l, hexVal (m.getD (2 * k) 0) = some h ∧ hexVal (m.getD (2 * k + 1) 0) = some l ∧
      (out.getD k 0).toNat = 16 * h + l := by
  fun_induction hexDecode m generalizing out k with
  | case1 => cases hdec; cases hk
  | case2 => cases hdec
  | case3 h l t ih =>
    simp only [Option.bind_eq_some_iff, Option.map_eq_some_iff] at hdec
    obtain ⟨x, hx, y, hy, rest, hrest, rfl⟩ := hdec
    cases k with
    | zero =>
      have hx16 := hexVal_lt h x hx
      have hy16 := hexVal_lt l y hy
      refine ⟨x, y, hx, hy, ?_⟩
      rw [List.getD_cons_zero, BitVec.toNat_ofNat]
      omega
    | succ k => exact ih hrest (Nat.lt_of_succ_lt_succ hk)

/-- HEX_DEC accepts texts of whole digit pairs only (41_codec.md R155, R172). -/
theorem wellFormed_of_hexDecode {m out : Bytes} (hdec : hexDecode m = some out) :
    m.length % 2 = 0 ∧ ∀ c ∈ m, (hexVal c).isSome = true := by
  fun_induction hexDecode m generalizing out with
  | case1 => simp
  | case2 => cases hdec
  | case3 h l t ih =>
    simp only [Option.bind_eq_some_iff, Option.map_eq_some_iff] at hdec
    obtain ⟨x, hx, y, hy, rest, hrest, -⟩ := hdec
    obtain ⟨heven, hdigits⟩ := ih hrest
    refine ⟨by simp only [List.length_cons]; omega, ?_⟩
    simp only [List.mem_cons, forall_eq_or_imp]
    exact ⟨Option.isSome_of_eq_some hx, Option.isSome_of_eq_some hy, hdigits⟩

/-- A pair decodes to the byte it was made of, by its two nibbles. -/
theorem hexDecode_hexPair_append (b : Byte) (t : Bytes) :
    hexDecode (hexPair b ++ t) = (hexDecode t).map (b :: ·) := by
  have hlt := b.isLt
  have hbyte : BitVec.ofNat 8 (b.toNat / 16 * 16 + b.toNat % 16) = b := by
    rw [Nat.div_add_mod', BitVec.ofNat_toNat, BitVec.setWidth_eq]
  simp only [hexPair, List.cons_append, List.nil_append, hexDecode, hexVal_hexCh (b.toNat / 16) (by omega),
    hexVal_hexCh (b.toNat % 16) (by omega), Option.bind_some, hbyte]

/-- HEX_DEC inverts HEX_ENC (41_codec.md R170). -/
theorem hexDecode_hexEncode (m : Bytes) : hexDecode (hexEncode false m) = some m := by
  induction m with
  | nil => rfl
  | cons b m ih => rw [hexEncode_false_cons, hexDecode_hexPair_append, ih, Option.map_some]

/-! ### The hex obligations -/

/-- Settles O33: what is written is the text, whose digits stand at 2 i, or at 3 i with the spaces between. -/
theorem hexEncWritesDigitPairs : Obligations.HexEncWritesDigitPairs := by
  intro s h0 hd n src dst digit
  constructor
  · have hlen : (hexEncode false s.src0Bytes).length = 2 * n := by rw [hexEncode_false_length, s.src0Bytes_length]
    refine fun hroom => CommandBody.hexEnc.exec_emits rfl h0 hd hlen hroom fun t hin i hi => ?_
    obtain ⟨hhigh, hlow⟩ := hexEncode_false_getD s.src0Bytes (i := i) (by rwa [s.src0Bytes_length])
    rw [s.src0Bytes_getD hi] at hhigh hlow
    exact ⟨(hin _ (by omega)).trans hhigh, (hin _ (by omega)).trans hlow⟩
  · have hlen : (hexEncode true s.src0Bytes).length = 3 * n - 1 := by rw [hexEncode_true_length, s.src0Bytes_length]
    refine fun hroom => CommandBody.hexEncSp.exec_emits rfl h0 hd hlen hroom fun t hin i hi => ?_
    obtain ⟨hhigh, hlow, hspace⟩ := hexEncode_true_getD s.src0Bytes (i := i) (by rwa [s.src0Bytes_length])
    rw [s.src0Bytes_getD hi] at hhigh hlow
    rw [s.src0Bytes_length] at hspace
    exact ⟨(hin _ (by omega)).trans hhigh, (hin _ (by omega)).trans hlow,
      fun hi' => (hin _ (by omega)).trans (hspace hi')⟩

/-- Settles O34: a text of digit pairs decodes, and each byte of the output has its pair in the text. -/
theorem hexDecReadsDigitPairs : Obligations.HexDecReadsDigitPairs := by
  intro s n h0 hd hn hroom hdigits
  have hvals : ∀ c ∈ s.src0Bytes, (hexVal c).isSome = true := by
    intro c hc
    obtain ⟨k, hk, rfl⟩ := (s.mem_src0Bytes c).mp hc
    exact Option.isSome_iff_exists.mpr (hdigits k (hn ▸ hk))
  obtain ⟨out, hdec, hlen⟩ := hexDecode_of_digits s.src0Bytes (s.src0Bytes_length.trans hn) hvals
  refine (CommandBody.hexDec_of_some hdec).exec_emits rfl h0 hd hlen hroom fun t hin k hk => ?_
  obtain ⟨x, y, hx, hy, hbyte⟩ := hexDecode_getD hdec (hlen.symm ▸ hk)
  rw [s.src0Bytes_getD (by omega)] at hx hy
  exact ⟨x, y, hx, hy, by rw [hin k hk, hbyte]⟩

/-- Settles O35: the decoder accepts whole digit pairs only. -/
theorem hexDecRejectsMalformedText : Obligations.HexDecRejectsMalformedText := by
  intro s h0 hd hbad
  refine CommandBody.hexDec.exec_eq_decode_error rfl h0 hd (Option.eq_none_iff_forall_ne_some.mpr fun out hdec => ?_)
  obtain ⟨heven, hdigits⟩ := wellFormed_of_hexDecode hdec
  rcases hbad with hodd | ⟨k, hk, hnot⟩
  · rw [s.src0Bytes_length] at heven
    omega
  · exact hnot ((hexVal_isSome_iff _).mp (hdigits _ ((s.mem_src0Bytes _).mpr ⟨k, hk, rfl⟩)))

/-- Settles O36, by `hexDecode_hexEncode`. -/
theorem hexRoundTrip : Obligations.HexRoundTrip := by
  intro s t s' hexec hok hsize hbuf haddr hlen hd' hroom
  refine CommandBody.hexEnc.round_trip (by decide) hexec hok ⟨hsize, hbuf, haddr, hlen⟩ hd' hroom rfl fun hsrc => ?_
  exact CommandBody.hexDec_of_some (by rw [hsrc, hexDecode_hexEncode])

/-! ### The Base64 text of what a decoder accepts -/

/-- The four sextets of a 24-bit value are the sextets it was put together from (41_codec.md R160, R165). -/
theorem b64Sextets_of_sum {v w x y z : Nat} (hw : w < 64) (hx : x < 64) (hy : y < 64) (hz : z < 64)
    (hv : v = w * 2 ^ 18 + x * 2 ^ 12 + y * 2 ^ 6 + z) :
    b64Sextet v 0 = w ∧ b64Sextet v 1 = x ∧ b64Sextet v 2 = y ∧ b64Sextet v 3 = z := by
  simp only [b64Sextet]
  omega

/-- A 24-bit value is the value of its three bytes. -/
theorem b64Value_bytes {v : Nat} (hv : v < 2 ^ 24) :
    b64Value (BitVec.ofNat 8 (v / 2 ^ 16)) (BitVec.ofNat 8 (v / 2 ^ 8)) (BitVec.ofNat 8 v) = v := by
  simp only [b64Value, BitVec.toNat_ofNat]
  omega

theorem ofNat_byte_eq_zero {v : Nat} (hv : v % 2 ^ 8 = 0) : BitVec.ofNat 8 v = 0 := by
  apply BitVec.eq_of_toNat_eq
  rw [BitVec.toNat_ofNat, hv]
  rfl

/-- The group that an accepted quartet decodes to encodes to that quartet. -/
theorem b64Encode_of_b64Quartet {a b c d : Byte} {o : Bytes} (h : b64Quartet a b c d = some o) (r : Bytes) :
    b64Encode (o ++ r) = [a, b, c, d] ++ b64Encode r := by
  simp only [b64Quartet, Option.bind_eq_some_iff, Option.map_eq_some_iff] at h
  obtain ⟨w, hw, x, hx, y, hy, z, hz, rfl⟩ := h
  obtain ⟨hw64, rfl⟩ := b64Ch_b64Val a w hw
  obtain ⟨hx64, rfl⟩ := b64Ch_b64Val b x hx
  obtain ⟨hy64, rfl⟩ := b64Ch_b64Val c y hy
  obtain ⟨hz64, rfl⟩ := b64Ch_b64Val d z hz
  obtain ⟨e0, e1, e2, e3⟩ := b64Sextets_of_sum hw64 hx64 hy64 hz64 rfl
  simp only [b64Bytes, List.cons_append, List.nil_append, b64Encode]
  rw [b64Value_bytes (by omega), e0, e1, e2, e3]

/-- R169 makes the third byte of the value 0, so that the group of two bytes has that value. -/
theorem b64Encode_of_b64PadOne {a b c : Byte} {o : Bytes} (h : b64PadOne a b c = some o) :
    b64Encode o = [a, b, c, b64PadChar] := by
  simp only [b64PadOne, Option.bind_eq_some_iff, Option.ite_none_right_eq_some, Option.some.injEq] at h
  obtain ⟨w, hw, x, hx, y, hy, hlow, rfl⟩ := h
  obtain ⟨hw64, rfl⟩ := b64Ch_b64Val a w hw
  obtain ⟨hx64, rfl⟩ := b64Ch_b64Val b x hx
  obtain ⟨hy64, rfl⟩ := b64Ch_b64Val c y hy
  obtain ⟨e0, e1, e2, -⟩ := b64Sextets_of_sum hw64 hx64 hy64 (z := 0) (by decide) (Nat.add_zero _).symm
  have hvalue := b64Value_bytes (v := w * 2 ^ 18 + x * 2 ^ 12 + y * 2 ^ 6) (by omega)
  rw [ofNat_byte_eq_zero hlow] at hvalue
  simp only [b64Bytes, List.take_succ_cons, List.take_zero, b64Encode]
  rw [hvalue, e0, e1, e2]

/-- R169 makes the last two bytes of the value 0, so that the group of one byte has that value. -/
theorem b64Encode_of_b64PadTwo {a b : Byte} {o : Bytes} (h : b64PadTwo a b = some o) :
    b64Encode o = [a, b, b64PadChar, b64PadChar] := by
  simp only [b64PadTwo, Option.bind_eq_some_iff, Option.ite_none_right_eq_some, Option.some.injEq] at h
  obtain ⟨w, hw, x, hx, hlow, rfl⟩ := h
  obtain ⟨hw64, rfl⟩ := b64Ch_b64Val a w hw
  obtain ⟨hx64, rfl⟩ := b64Ch_b64Val b x hx
  obtain ⟨e0, e1, -, -⟩ := b64Sextets_of_sum (v := w * 2 ^ 18 + x * 2 ^ 12) hw64 hx64 (y := 0) (z := 0) (by decide)
    (by decide) (by omega)
  have hvalue := b64Value_bytes (v := w * 2 ^ 18 + x * 2 ^ 12) (by omega)
  have hmid : BitVec.ofNat 8 ((w * 2 ^ 18 + x * 2 ^ 12) / 2 ^ 8) = 0 := ofNat_byte_eq_zero (by omega)
  have hlast : BitVec.ofNat 8 (w * 2 ^ 18 + x * 2 ^ 12) = 0 := ofNat_byte_eq_zero (by omega)
  rw [hmid, hlast] at hvalue
  simp only [b64Bytes, List.take_succ_cons, List.take_zero, b64Encode]
  rw [hvalue, e0, e1]

/-- The last quartet, by its padding count. -/
theorem b64Encode_of_b64Last {a b c d : Byte} {o : Bytes} (h : b64Last a b c d = some o) :
    b64Encode o = [a, b, c, d] := by
  unfold b64Last at h
  split_ifs at h with hd hc
  · rw [hc, hd, b64Encode_of_b64PadTwo h]
  · rw [hd, b64Encode_of_b64PadOne h]
  · simpa only [List.append_nil, b64Encode] using b64Encode_of_b64Quartet h []

/-- B64_ENC inverts B64_DEC on every text that B64_DEC accepts (41_codec.md R171, second law). -/
theorem b64Encode_of_b64Decode {m out : Bytes} (hdec : b64Decode m = some out) : b64Encode out = m := by
  fun_induction b64Decode m generalizing out with
  | case1 => cases hdec; rfl
  | case2 a b c d => exact b64Encode_of_b64Last hdec
  | case3 a b c d t _ ih =>
    simp only [Option.bind_eq_some_iff, Option.map_eq_some_iff] at hdec
    obtain ⟨o, ho, r, hr, rfl⟩ := hdec
    rw [b64Encode_of_b64Quartet ho, ih hr]
    rfl
  | case4 => cases hdec

/-! ### The Base64 obligations -/

/-- Settles O37: what is written is the text, character by character. -/
theorem b64EncWritesQuartets : Obligations.B64EncWritesQuartets := by
  intro s h0 hd n quartets byte hroom
  have hlen : (b64Encode s.src0Bytes).length = 4 * quartets := by rw [b64Encode_length, s.src0Bytes_length]
  refine CommandBody.b64Enc.exec_emits rfl h0 hd hlen hroom fun t hin q j hq hj => ?_
  have hchar := b64Encode_getD s.src0Bytes q j (by rwa [s.src0Bytes_length]) hj
  simp only [b64Value, State.src0Bytes_getD_toNat, s.src0Bytes_length] at hchar
  exact (hin _ (by omega)).trans hchar

/-- Settles O38, by `b64Decode_b64Encode`. -/
theorem b64DecInvertsEncoding : Obligations.B64DecInvertsEncoding := by
  intro s b h0 hd htext hroom
  have hsrc : s.src0Bytes = b64Encode b := (base64Text_iff _ b).mp htext
  have hdec : b64Decode s.src0Bytes = some b := by rw [hsrc, b64Decode_b64Encode]
  exact (CommandBody.b64Dec_of_some hdec).exec_emits rfl h0 hd rfl hroom fun _ hin => hin

/-- Settles O39: an accepted text is the encoding of what it decodes to. -/
theorem b64DecAcceptsEncodingsOnly : Obligations.B64DecAcceptsEncodingsOnly := by
  intro s h0 hd hno
  refine CommandBody.b64Dec.exec_eq_decode_error rfl h0 hd (Option.eq_none_iff_forall_ne_some.mpr fun out hdec => ?_)
  exact hno out ((base64Text_iff _ out).mpr (b64Encode_of_b64Decode hdec).symm)

/-- A B64_DEC that completes OK accepted its text. -/
theorem b64Decode_of_exec_ok {s t : State} (hexec : exec .b64Dec s = .next t) (hok : t.errCode = .ok) :
    ∃ out, b64Decode s.src0Bytes = some out := by
  obtain ⟨-, rfl⟩ := CommandBody.b64Dec.of_exec_ok hexec hok
  rcases s.emitDecoded_cases (b64Decode s.src0Bytes) with ⟨_, e⟩ | ⟨out, hdec, _⟩
  · rw [e] at hok
    cases hok
  · exact ⟨out, hdec⟩

/-- Settles O40: the first law by `b64Decode_b64Encode`, the second by `b64Encode_of_b64Decode`. -/
theorem base64RoundTrips : Obligations.Base64RoundTrips := by
  constructor
  · intro s t s' hexec hok hsize hbuf haddr hlen hd' hroom
    refine CommandBody.b64Enc.round_trip (by decide) hexec hok ⟨hsize, hbuf, haddr, hlen⟩ hd' hroom rfl fun hsrc => ?_
    exact CommandBody.b64Dec_of_some (by rw [hsrc, b64Decode_b64Encode])
  · intro s t s' hexec hok hsize hbuf haddr hlen hd' hroom
    obtain ⟨out, hdec⟩ := b64Decode_of_exec_ok hexec hok
    refine (CommandBody.b64Dec_of_some hdec).round_trip (by decide) hexec hok ⟨hsize, hbuf, haddr, hlen⟩ hd' hroom rfl
      fun hsrc => ?_
    rw [← b64Encode_of_b64Decode hdec, ← hsrc]
    exact CommandBody.b64Enc

end Sys2Proof.Machine
end

section
/-! The digest core: what a run of compressions leaves of STATE (42_digest_core.md R214) and how the padding fills its
last block (42_digest_core.md R216, R217). -/

namespace Sys2Proof.Machine

open Sys2Proof

/-! ### Words of STATE over many blocks -/

/-- What one compression keeps of STATE, any number of them keeps. -/
theorem compressAll_keeps {α : Type} {alg : Alg} (word : Chain → α) (hkeep : ∀ c b, word (compress alg c b) = word c)
    (c : Chain) (m : Bytes) : word (compressAll alg c m) = word c := by
  unfold compressAll
  induction blocksOf (m.length / 64) m generalizing c with
  | nil => rfl
  | cons b bs ih => exact (ih (compress alg c b)).trans (hkeep c b)

/-- `compressAll_keeps` for a word that SHA-1 does not replace. -/
theorem compressAll_sha1_keeps {α : Type} (word : Chain → α) (hkeep : ∀ c v, word (Chain.withSha1 c v) = word c)
    (c : Chain) (m : Bytes) : word (compressAll .sha1 c m) = word c :=
  compressAll_keeps word (fun c b => (congrArg word (compress_sha1 c b)).trans (hkeep c _)) c m

/-- `compressAll_keeps` for a word that MD5 does not replace. -/
theorem compressAll_md5_keeps {α : Type} (word : Chain → α) (hkeep : ∀ c v, word (Chain.withMd5 c v) = word c)
    (c : Chain) (m : Bytes) : word (compressAll .md5 c m) = word c :=
  compressAll_keeps word (fun c b => (congrArg word (compress_md5 c b)).trans (hkeep c _)) c m

/-! ### The padding -/

@[simp] theorem zeros_length (n : Nat) : (zeros n).length = n := List.length_replicate

/-- 0x80, the zero bytes, and the eight bytes of the length (42_digest_core.md R216). -/
@[simp] theorem pad_length (alg : Alg) (r l : Nat) : (pad alg r l).length = padZeros r + 9 := by
  simp [pad]

/-- 0x80 and the length still fit into the block that the tail ends in. -/
theorem padZeros_of_le {r : Nat} (hr : r % 64 ≤ 55) : padZeros r = 55 - r % 64 := by
  unfold padZeros
  omega

/-- They do not fit, and the zero bytes run on into one more block. -/
theorem padZeros_of_gt {r : Nat} (hr : 55 < r % 64) : padZeros r = 119 - r % 64 := by
  unfold padZeros
  omega

theorem add_pad_length (alg : Alg) (r l : Nat) :
    r + (pad alg r l).length = 64 * (r / 64 + if r % 64 ≤ 55 then 1 else 2) := by
  rw [pad_length]
  split
  case isTrue hr =>
    rw [padZeros_of_le hr]
    omega
  case isFalse hr =>
    rw [padZeros_of_gt (not_le.mp hr)]
    omega

/-- A tail of whole blocks is followed by a block of padding only. -/
theorem pad_length_of_whole_blocks (alg : Alg) {r : Nat} (hr : r % 64 = 0) (l : Nat) : (pad alg r l).length = 64 := by
  rw [pad_length, padZeros_of_le (by omega), hr]

/-- Each algorithm writes a zero length as eight zero bytes, whatever its byte order. -/
theorem len64_zero (alg : Alg) : len64 alg 0 = zeros 8 := by
  cases alg <;> rfl

/-- The padding of the empty message. -/
theorem pad_zero_zero (alg : Alg) : pad alg 0 0 = 0x80 :: List.replicate 63 0 := by
  rw [pad, len64_zero, padZeros_of_le (by decide), zeros, zeros, List.replicate_append_replicate]

/-! ### The obligations -/

/-- Settles O23: none of these words is among those that a compression replaces. -/
theorem unusedStateWordsUnchanged : Obligations.UnusedStateWordsUnchanged := fun c m =>
  ⟨⟨compressAll_sha1_keeps Chain.s5 Chain.withSha1_s5 c m,
    compressAll_sha1_keeps Chain.s6 Chain.withSha1_s6 c m,
    compressAll_sha1_keeps Chain.s7 Chain.withSha1_s7 c m⟩,
   compressAll_md5_keeps Chain.s4 Chain.withMd5_s4 c m,
   compressAll_md5_keeps Chain.s5 Chain.withMd5_s5 c m,
   compressAll_md5_keeps Chain.s6 Chain.withMd5_s6 c m,
   compressAll_md5_keeps Chain.s7 Chain.withMd5_s7 c m⟩

/-- Settles O24, by whether 0x80 and the length fit into the block that the tail ends in. -/
theorem paddingFillsWholeBlocks : Obligations.PaddingFillsWholeBlocks := fun alg r l =>
  ⟨add_pad_length alg r l, fun hr => pad_length_of_whole_blocks alg hr l, pad_zero_zero alg⟩

end Sys2Proof.Machine
end

section
/-! Noninterference: a command reads nothing but its inputs (40_control.md R123, R129, 43_digest_commands.md R245,
70_reset_and_hazards.md R366). -/

namespace Sys2Proof.Machine

open Sys2Proof

/-! ### What equal inputs give -/

theorem SameInputs.src0Bytes {s s' : State} (h : SameInputs s s') : s'.src0Bytes = s.src0Bytes := by
  rw [State.src0Bytes, State.src0Bytes, h.buf, h.src0Addr, h.src0Len]

theorem SameInputs.src1Bytes {s s' : State} (h : SameInputs s s') : s'.src1Bytes = s.src1Bytes := by
  rw [State.src1Bytes, State.src1Bytes, h.buf, h.src1Addr, h.src1Len]

theorem SameInputs.finalBits {s s' : State} (h : SameInputs s s') : s'.finalBits = s.finalBits := by
  rw [State.finalBits, State.finalBits, h.msgBits, h.src0Len]

theorem SameInputs.finalChain {s s' : State} (h : SameInputs s s') (alg : Alg) :
    s'.finalChain alg = s.finalChain alg := by
  rw [State.finalChain, State.finalChain, h.chain, h.src0Bytes, h.finalBits]

theorem SameInputs.ctEqual {s s' : State} (h : SameInputs s s') : s'.ctEqual = s.ctEqual := by
  rw [State.ctEqual, State.ctEqual, h.src0Len, h.src1Len, h.src0Bytes, h.src1Bytes]

theorem SameInputs.operandInRange {s s' : State} (h : SameInputs s s') (o : Operand) :
    s'.operandInRange o = s.operandInRange o := by
  cases o
  case src0 => simp only [State.operandInRange, State.inRange, h.bufSize, h.src0Addr, h.src0Len]
  case src1 => simp only [State.operandInRange, State.inRange, h.bufSize, h.src1Addr, h.src1Len]
  case dst => simp only [State.operandInRange, State.inRange, h.bufSize, h.dstAddr, h.dstCap]

theorem SameInputs.operandsOk {s s' : State} (h : SameInputs s s') (i : Instr) : s'.operandsOk i = s.operandsOk i := by
  rw [State.operandsOk, State.operandsOk, funext h.operandInRange]

/-! ### Equal outcomes -/

/-- Two states that agree in what a command can write, RESULT aside, which only CT_CMP writes. -/
structure SameOutcome (t t' : State) : Prop where
  buf : t'.buf = t.buf
  chain : t'.chain = t.chain
  msgBits : t'.msgBits = t.msgBits
  errCode : t'.errCode = t.errCode
  outLen : t'.outLen = t.outLen

theorem SameInputs.raiseError {s s' : State} (h : SameInputs s s') (e : ErrCode) (n : Nat) :
    SameOutcome (s.raiseError e n) (s'.raiseError e n) :=
  ⟨h.buf, h.chain, h.msgBits, rfl, rfl⟩

theorem SameInputs.emit {s s' staged staged' : State} (h : SameInputs s s') (hchain : staged'.chain = staged.chain)
    (hbits : staged'.msgBits = staged.msgBits) (out : Bytes) :
    SameOutcome (s.emit out staged) (s'.emit out staged') := by
  have hcap := h.dstCap
  rcases s.emit_cases out staged with ⟨hle, e⟩ | ⟨hlt, e⟩
  · rw [e, s'.emit_ok out staged' (by rwa [hcap]), h.buf, h.dstAddr]
    exact ⟨rfl, hchain, hbits, rfl, rfl⟩
  · rw [e, s'.emit_overflow out staged' (by rwa [hcap])]
    exact h.raiseError .dstOvf out.length

theorem SameInputs.emit_stage {s s' : State} (h : SameInputs s s') (out : Bytes) (c : Chain) (b : BitVec 64) :
    SameOutcome (s.emit out (s.stage c b)) (s'.emit out (s'.stage c b)) :=
  h.emit (staged := s.stage c b) (staged' := s'.stage c b) rfl rfl out

theorem SameInputs.emit_self {s s' : State} (h : SameInputs s s') (out : Bytes) :
    SameOutcome (s.emit out s) (s'.emit out s') :=
  h.emit h.chain h.msgBits out

theorem SameInputs.emitDecoded {s s' : State} (h : SameInputs s s') (o : Option Bytes) :
    SameOutcome (s.emitDecoded o) (s'.emitDecoded o) := by
  cases o with
  | none => exact h.raiseError .decode 0
  | some out => exact h.emit_self out

theorem SameInputs.checked {s s' t t' : State} (h : SameInputs s s') (i : Instr) (hbody : SameOutcome t t') :
    SameOutcome (s.checked i t) (s'.checked i t') := by
  rcases s.checked_cases i t with ⟨hok, e⟩ | ⟨hok, e⟩
  · rw [e, s'.checked_ok i t' (by rwa [h.operandsOk])]
    exact hbody
  · rw [e, s'.checked_fail i t' (by rwa [h.operandsOk])]
    exact h.raiseError .range 0

/-! ### Every body -/

theorem SameInputs.hashBlockBody {s s' : State} (h : SameInputs s s') (alg : Alg) :
    SameOutcome (hashBlockBody alg s) (hashBlockBody alg s') := by
  unfold Machine.hashBlockBody
  rw [h.src0Len, h.src0Bytes, h.chain, h.msgBits]
  split
  · exact ⟨h.buf, rfl, rfl, rfl, rfl⟩
  · exact h.raiseError .length 0

/-- From equal inputs the bodies of one command have equal outcomes. -/
theorem CommandBody.sameOutcome {s s' t : State} {i : Instr} (hbody : CommandBody s i t) (h : SameInputs s s') :
    ∃ t', CommandBody s' i t' ∧ SameOutcome t t' := by
  cases hbody
  case nop => exact ⟨_, .nop, h.buf, h.chain, h.msgBits, rfl, rfl⟩
  case hashInit alg => exact ⟨_, .hashInit alg, h.buf, rfl, rfl, rfl, rfl⟩
  case hashBlock alg => exact ⟨_, .hashBlock alg, h.hashBlockBody alg⟩
  case hashFinal alg =>
    refine ⟨_, .hashFinal alg, ?_⟩
    rw [hashFinalBody, hashFinalBody, h.finalChain, h.finalBits]
    exact h.emit_stage _ _ _
  case hash alg =>
    refine ⟨_, .hash alg, ?_⟩
    rw [hashBody, hashBody, h.src0Bytes, h.src0Len]
    exact h.emit_stage _ _ _
  case hmac alg =>
    refine ⟨_, .hmac alg, ?_⟩
    rw [hmacBody, hmacBody, h.src0Bytes, h.src1Bytes]
    exact h.emit_stage _ _ _
  case ctCmp => exact ⟨_, .ctCmp, h.buf, h.chain, h.msgBits, rfl, rfl⟩
  case hexEnc => exact ⟨_, .hexEnc, h.src0Bytes ▸ h.emit_self _⟩
  case hexEncSp => exact ⟨_, .hexEncSp, h.src0Bytes ▸ h.emit_self _⟩
  case hexDec => exact ⟨_, .hexDec, h.src0Bytes ▸ h.emitDecoded _⟩
  case b64Enc => exact ⟨_, .b64Enc, h.src0Bytes ▸ h.emit_self _⟩
  case b64Dec => exact ⟨_, .b64Dec, h.src0Bytes ▸ h.emitDecoded _⟩

/-- A CT_CMP that completes OK leaves the comparator's verdict in RESULT (44_mac.md R281). -/
theorem ctCmp_resultEq_of_exec_ok {s t : State} (hexec : exec .ctCmp s = .next t) (hok : t.errCode = .ok) :
    t.resultEq = s.ctEqual := by
  obtain ⟨-, rfl⟩ := CommandBody.ctCmp.of_exec_ok hexec hok
  rfl

/-- Settles O18: equal inputs pass or fail the range check alike and have bodies of equal outcomes. -/
theorem commandsDependOnInputsOnly : Obligations.CommandsDependOnInputsOnly := by
  intro i s s' t t' hsame hexec hexec'
  obtain ⟨body, hbody⟩ := CommandBody.total i s
  obtain ⟨body', hbody', hout⟩ := hbody.sameOutcome hsame
  have ht : s.checked i body = t := Host.Outcome.next.inj (hbody.exec_eq.symm.trans hexec)
  have ht' : s'.checked i body' = t' := Host.Outcome.next.inj (hbody'.exec_eq.symm.trans hexec')
  obtain ⟨hbuf, hchain, hbits, herr, hlen⟩ : SameOutcome t t' := ht ▸ ht' ▸ hsame.checked i hout
  refine ⟨hbuf, hchain, hbits, herr, hlen, ?_⟩
  rintro rfl hok
  rw [ctCmp_resultEq_of_exec_ok hexec hok, ctCmp_resultEq_of_exec_ok hexec' (herr.trans hok), hsame.ctEqual]

end Sys2Proof.Machine
end

section
/-! The digest commands: HASH_INIT, HASH_BLOCK, HASH_FINAL and HASH, and that a stream of them is one HASH
(43_digest_commands.md R240 to R246). -/

namespace Sys2Proof.Machine

open Sys2Proof

/-! ### HASH_INIT -/

/-- HASH_INIT has no operand to check. -/
theorem exec_hashInitOf (alg : Alg) (s : State) : exec (hashInitOf alg) s = .next (hashInitBody alg s) :=
  (CommandBody.hashInit alg).exec_eq_body (by cases alg <;> rfl)

/-- Settles O20: the initial values are the words of R194, R203 and R209, and the words they leave unused are 0. -/
theorem hashInitLoadsInitialValues : Obligations.HashInitLoadsInitialValues :=
  ⟨rfl, rfl, rfl, fun s => ⟨exec_hashInitOf .sha256 s, exec_hashInitOf .sha1 s, exec_hashInitOf .md5 s⟩⟩

/-! ### HASH_BLOCK -/

theorem operandsOk_hashBlockOf_iff (alg : Alg) (s : State) : s.operandsOk (hashBlockOf alg) = true ↔ s.src0Fits := by
  rw [s.operandsOk_iff]
  cases alg <;> simp [hashBlockOf, operandsOf]

theorem exec_hashBlockOf {alg : Alg} {s : State} (h0 : s.src0Fits) :
    exec (hashBlockOf alg) s = .next (hashBlockBody alg s) :=
  (CommandBody.hashBlock alg).exec_eq_body ((operandsOk_hashBlockOf_iff alg s).mpr h0)

theorem exec_hashBlockOf_out_of_range {alg : Alg} {s : State} (h0 : ¬ s.src0Fits) :
    exec (hashBlockOf alg) s = .next (s.failed .range 0) :=
  exec_of_operand_out_of_range (by rwa [← Bool.not_eq_true, operandsOk_hashBlockOf_iff])

theorem hashBlockBody_of_whole_blocks {alg : Alg} {s : State} {k : Nat} (hlen : s.src0Len.toNat = 64 * k) :
    hashBlockBody alg s =
      (s.stage (compressAll alg s.chain s.src0Bytes) (s.msgBits + BitVec.ofNat 64 (512 * k))).complete 0 := by
  rw [hashBlockBody, if_pos (by omega), show s.src0Len.toNat / 64 = k by omega]

theorem hashBlockBody_of_partial_block {alg : Alg} {s : State} (hlen : s.src0Len.toNat % 64 ≠ 0) :
    hashBlockBody alg s = s.failed .length 0 :=
  if_neg hlen

/-- Compressing a range of BUF reads its blocks one by one, in address order. -/
theorem compressAll_readBytes (alg : Alg) (c : Chain) (m : Memory) (a k : Nat) :
    compressAll alg c (m.readBytes a (64 * k)) =
      (List.range k).foldl (fun c j => compress alg c (m.readBytes (a + 64 * j) 64)) c := by
  rw [compressAll, Memory.readBytes_length, Nat.mul_div_cancel_left k (by decide), blocksOf_readBytes, List.foldl_map]

/-- Settles O21, by whether the source lies in BUF and is a run of whole blocks. -/
theorem hashBlockCompresses : Obligations.HashBlockCompresses := by
  refine ⟨rfl, rfl, rfl, fun alg s => ⟨fun k h0 hlen => ?_, fun h0 hlen => ?_, exec_hashBlockOf_out_of_range⟩⟩
  · have hbits : s.msgBits + BitVec.ofNat 64 (512 * k) = BitVec.ofNat 64 (s.msgBits.toNat + 512 * k) := by
      rw [BitVec.ofNat_add, BitVec.ofNat_toNat, BitVec.setWidth_eq]
    rw [exec_hashBlockOf h0, hashBlockBody_of_whole_blocks hlen, hbits, State.src0Bytes, hlen, compressAll_readBytes]
    rfl
  · rw [exec_hashBlockOf h0, hashBlockBody_of_partial_block hlen]

/-- A single block is compressed into STATE as it stands. -/
theorem exec_hashBlockOf_single {alg : Alg} {s : State} (h0 : s.src0Fits) (hlen : s.src0Len = 64) :
    ∃ t, exec (hashBlockOf alg) s = .next t ∧ t.errCode = .ok ∧
      t.chain = compress alg s.chain (s.buf.readBytes s.src0Addr.toNat 64) := by
  have hone : s.src0Len.toNat = 64 * 1 := by rw [hlen]; rfl
  refine ⟨_, (exec_hashBlockOf h0).trans (congrArg _ (hashBlockBody_of_whole_blocks hone)), rfl, ?_⟩
  rw [State.complete_chain, State.stage_chain, State.src0Bytes, hone, compressAll_readBytes]
  rfl

theorem Chain.withSha1_eq (c : Chain) (v : Sha1Vars) :
    c.withSha1 v = ⟨v.a, v.b, v.c, v.d, v.e, c.s5, c.s6, c.s7⟩ := (rfl)

theorem Chain.withMd5_eq (c : Chain) (v : Md5Vars) :
    c.withMd5 v = ⟨v.a, v.b, v.c, v.d, c.s4, c.s5, c.s6, c.s7⟩ := (rfl)

/-- Settles O22: the compression of the single block, with the words it does not replace. -/
theorem blockCompressorIdentity : Obligations.BlockCompressorIdentity := by
  intro s h0 hlen b
  obtain ⟨t, ht, hok, hchain⟩ := exec_hashBlockOf_single (alg := .sha256) h0 hlen
  obtain ⟨t1, ht1, hok1, hchain1⟩ := exec_hashBlockOf_single (alg := .sha1) h0 hlen
  obtain ⟨t5, ht5, hok5, hchain5⟩ := exec_hashBlockOf_single (alg := .md5) h0 hlen
  rw [compress_sha256] at hchain
  rw [compress_sha1, Chain.withSha1_eq] at hchain1
  rw [compress_md5, Chain.withMd5_eq] at hchain5
  exact ⟨⟨t, ht, hok, hchain⟩, ⟨t1, ht1, hok1, hchain1⟩, ⟨t5, ht5, hok5, hchain5⟩⟩

/-! ### How a command that writes a digest ends -/

/-- What a command leaves that ends a hash in the chaining state c: the success completion with c in STATE, b in MSGBITS
and the digest of c at the destination (40_control.md R128, R130, 42_digest_core.md R218). -/
structure Digested (s t : State) (alg : Alg) (c : Chain) (b : BitVec 64) : Prop where
  completed : Completed t .ok (digestLen alg)
  frame : CommandFrame s t
  resultEq : t.resultEq = s.resultEq
  chain : t.chain = c
  msgBits : t.msgBits = b
  buf : t.buf = s.buf.writeBytes s.dstAddr.toNat (digest alg c)

theorem State.emit_digested {s : State} {alg : Alg} (hroom : digestLen alg ≤ s.dstCap.toNat) (c : Chain)
    (b : BitVec 64) : Digested s (s.emit (digest alg c) (s.stage c b)) alg c b := by
  have houtLen : (BitVec.ofNat 32 (digestLen alg)).toNat = digestLen alg := by cases alg <;> rfl
  rw [s.emit_ok _ _ (by rwa [digest_length]), digest_length]
  exact ⟨⟨rfl, houtLen, rfl, rfl⟩, by constructor <;> rfl, rfl, rfl, rfl, rfl⟩

/-- An output that completed OK fitted. -/
theorem State.room_of_emit_ok {s staged : State} {out : Bytes} (hok : (s.emit out staged).errCode = .ok) :
    out.length ≤ s.dstCap.toNat := by
  rcases s.emit_cases out staged with ⟨hroom, _⟩ | ⟨_, e⟩
  · exact hroom
  · rw [e] at hok
    cases hok

theorem State.digested_of_emit_ok {s : State} {alg : Alg} {c : Chain} {b : BitVec 64}
    (hok : (s.emit (digest alg c) (s.stage c b)).errCode = .ok) :
    Digested s (s.emit (digest alg c) (s.stage c b)) alg c b :=
  State.emit_digested (by simpa only [digest_length] using State.room_of_emit_ok hok) c b

theorem bufWritten_of_writeBytes {s t : State} {a : Nat} {out : Bytes} (h : t.buf = s.buf.writeBytes a out) :
    BufWritten s t a out := by
  constructor
  · intro k hk
    rw [h, Memory.read_writeBytes_inside _ _ _ k hk]
  · intro x hx
    rw [h, Memory.read_writeBytes_outside _ _ _ x hx]

theorem Digested.bufWritten {s t : State} {alg : Alg} {c : Chain} {b : BitVec 64} (h : Digested s t alg c b) :
    BufWritten s t s.dstAddr.toNat (digest alg c) :=
  bufWritten_of_writeBytes h.buf

/-! ### HASH_FINAL and HASH -/

theorem exec_hashFinalOf {alg : Alg} {s : State} (h0 : s.src0Fits) (hd : s.dstFits) :
    exec (hashFinalOf alg) s = .next (hashFinalBody alg s) :=
  (CommandBody.hashFinal alg).exec_eq_body (operandsOk_of_src0_dst (operandsOf_hashFinalOf alg) h0 hd)

theorem exec_hashOf {alg : Alg} {s : State} (h0 : s.src0Fits) (hd : s.dstFits) :
    exec (hashOf alg) s = .next (hashBody alg s) :=
  (CommandBody.hash alg).exec_eq_body (operandsOk_of_src0_dst (operandsOf_hashOf alg) h0 hd)

theorem State.finalBits_toNat (s : State) :
    s.finalBits.toNat = (s.msgBits.toNat + 8 * s.src0Len.toNat) % 2 ^ 64 := by
  rw [State.finalBits, BitVec.toNat_add, BitVec.toNat_ofNat, Nat.add_mod_mod]

/-- A source length fits MSGBITS in bits, so HASH does not wrap. -/
theorem State.hashBits_toNat (s : State) : (BitVec.ofNat 64 (8 * s.src0Len.toNat)).toNat = 8 * s.src0Len.toNat := by
  have hlt := s.src0Len.isLt
  rw [BitVec.toNat_ofNat]
  omega

/-- Settles O25: the digest is emitted from HASH_FINAL's chaining state, whose tail is the source range. -/
theorem hashFinalCompletes : Obligations.HashFinalCompletes := by
  intro alg s h0 hd hroom tail n q bits
  have h : Digested s (hashFinalBody alg s) alg (s.finalChain alg) s.finalBits := State.emit_digested hroom _ _
  refine ⟨_, exec_hashFinalOf h0 hd, h.completed, h.frame, h.resultEq, ?_, ?_, digest_length alg _, ?_⟩
  · rw [h.chain, State.finalChain, finishHash, s.src0Bytes_length, s.finalBits_toNat]
    rfl
  · rw [h.msgBits, s.finalBits_toNat]
  · rw [h.chain]
    exact h.bufWritten

/-- Settles O26: the digest is emitted from the chaining state of the message hash, which starts from the
initial value. -/
theorem hashCompletes : Obligations.HashCompletes := by
  intro alg s h0 hd hroom m n q
  have h : Digested s (hashBody alg s) alg (hashChain alg s.src0Bytes) (BitVec.ofNat 64 (8 * s.src0Len.toNat)) :=
    State.emit_digested hroom _ _
  refine ⟨_, exec_hashOf h0 hd, h.completed, h.frame, h.resultEq, ?_, ?_, ?_⟩
  · rw [h.chain, hashChain, finishHash, s.src0Bytes_length]
    rfl
  · rw [h.msgBits, s.hashBits_toNat]
  · rw [h.chain]
    exact h.bufWritten

/-! ### HASH is HASH_INIT and then HASH_FINAL -/

theorem hashInitBody_finalBits (alg : Alg) (s : State) :
    (hashInitBody alg s).finalBits = BitVec.ofNat 64 (8 * s.src0Len.toNat) :=
  BitVec.zero_add _

theorem hashInitBody_finalChain (alg : Alg) (s : State) :
    (hashInitBody alg s).finalChain alg = hashChain alg s.src0Bytes := by
  rw [State.finalChain, hashInitBody_finalBits, s.hashBits_toNat, hashChain, s.src0Bytes_length]
  rfl

/-- An output that fits hides the completion fields of the state it is written from. -/
theorem hashFinalBody_hashInitBody {alg : Alg} {s : State} (hroom : digestLen alg ≤ s.dstCap.toNat) :
    hashFinalBody alg (hashInitBody alg s) = hashBody alg s := by
  rw [hashFinalBody, hashInitBody_finalChain, hashInitBody_finalBits, hashBody, hashFn,
    State.emit_ok _ _ _ (by rwa [digest_length]), State.emit_ok _ _ _ (by rwa [digest_length])]
  rfl

/-- Settles O27: HASH_INIT leaves the operands alone, so HASH_FINAL passes the same check and ends the same hash. -/
theorem hashIsInitThenFinal : Obligations.HashIsInitThenFinal := by
  intro alg s t u v hhash hok hinit hfinal
  obtain ⟨hops, rfl⟩ := (CommandBody.hash alg).of_exec_ok hhash hok
  obtain rfl : hashInitBody alg s = u := Host.Outcome.next.inj ((exec_hashInitOf alg s).symm.trans hinit)
  obtain ⟨h0, -, hd⟩ := (s.operandsOk_iff (hashOf alg)).mp hops
  rw [operandsOf_hashOf] at h0 hd
  have hroom : digestLen alg ≤ s.dstCap.toNat := by simpa only [hashFn_length] using State.room_of_emit_ok hok
  have hv : exec (hashFinalOf alg) (hashInitBody alg s) = .next (hashFinalBody alg (hashInitBody alg s)) :=
    exec_hashFinalOf (s := hashInitBody alg s) (h0 (by decide)) (hd (by decide))
  rw [Host.Outcome.next.inj (hfinal.symm.trans hv), hashFinalBody_hashInitBody hroom]

/-! ### Streaming -/

/-- The padding holds the length mod 2^64 (42_digest_core.md R216), so a length read back from MSGBITS will do. -/
theorem len64_toNat_ofNat (alg : Alg) (l : Nat) : len64 alg (BitVec.ofNat 64 l).toNat = len64 alg l := by
  cases alg <;> simp only [len64, BitVec.ofNat_toNat, BitVec.setWidth_eq]

theorem finishHash_toNat_ofNat (alg : Alg) (c : Chain) (t : Bytes) (l : Nat) :
    finishHash alg c t (BitVec.ofNat 64 l).toNat = finishHash alg c t l := by
  simp only [finishHash, pad, len64_toNat_ofNat]

/-- Whole blocks before the tail may be compressed first. -/
theorem finishHash_append (alg : Alg) (c : Chain) (m t : Bytes) (l : Nat) (hm : m.length % 64 = 0) :
    finishHash alg c (m ++ t) l = finishHash alg (compressAll alg c m) t l := by
  have hblocks : 64 * ((m ++ t).length / 64) = m.length + 64 * (t.length / 64) := by
    rw [List.length_append]
    omega
  have hrest : (m ++ t).length - (m.length + 64 * (t.length / 64)) = t.length - 64 * (t.length / 64) := by
    rw [List.length_append]
    omega
  simp only [finishHash, hblocks, hrest, List.take_length_add_append, List.drop_length_add_append,
    compressAll_append alg c m _ hm]

/-- A stream has compressed a run of whole blocks from the initial value and counted their bits mod 2^64. -/
theorem Stream.compressed {alg : Alg} {r : State} {m : Bytes} (h : Stream alg r m) :
    m.length % 64 = 0 ∧ r.chain = compressAll alg (iv alg) m ∧ r.msgBits = BitVec.ofNat 64 (8 * m.length) := by
  induction h with
  | @init s t hexec =>
    obtain rfl : hashInitBody alg s = t := Host.Outcome.next.inj ((exec_hashInitOf alg s).symm.trans hexec)
    exact ⟨rfl, rfl, rfl⟩
  | @block r s t m _ hchain hbits hexec hok ih =>
    obtain ⟨hwhole, hchainR, hbitsR⟩ := ih
    obtain ⟨-, rfl⟩ := (CommandBody.hashBlock alg).of_exec_ok hexec hok
    have hlen : s.src0Len.toNat % 64 = 0 := by
      by_contra hpartial
      rw [hashBlockBody_of_partial_block hpartial] at hok
      cases hok
    obtain ⟨k, hk⟩ : ∃ k, s.src0Len.toNat = 64 * k := ⟨s.src0Len.toNat / 64, by omega⟩
    have hsrc : s.src0Bytes.length = 64 * k := s.src0Bytes_length.trans hk
    rw [hashBlockBody_of_whole_blocks hk, List.length_append, hsrc]
    refine ⟨by omega, ?_, ?_⟩
    · rw [State.complete_chain, State.stage_chain, hchain, hchainR, compressAll_append alg _ m _ hwhole]
    · rw [State.complete_msgBits, State.stage_msgBits, hbits, hbitsR, ← BitVec.ofNat_add]
      congr 1
      omega

/-- HASH_FINAL after a stream counts the bits of the whole message. -/
theorem Stream.finalBits {alg : Alg} {r s : State} {m : Bytes} (h : Stream alg r m) (hbits : s.msgBits = r.msgBits) :
    s.finalBits = BitVec.ofNat 64 (8 * (m ++ s.src0Bytes).length) := by
  obtain ⟨-, -, hbitsR⟩ := h.compressed
  rw [State.finalBits, hbits, hbitsR, ← BitVec.ofNat_add, List.length_append, s.src0Bytes_length, Nat.mul_add]

/-- HASH_FINAL after a stream ends in the chaining state of the whole message's hash. -/
theorem Stream.finalChain {alg : Alg} {r s : State} {m : Bytes} (h : Stream alg r m) (hchain : s.chain = r.chain)
    (hbits : s.msgBits = r.msgBits) : s.finalChain alg = hashChain alg (m ++ s.src0Bytes) := by
  obtain ⟨hwhole, hchainR, -⟩ := h.compressed
  rw [State.finalChain, h.finalBits hbits, finishHash_toNat_ofNat, hchain, hchainR, hashChain,
    finishHash_append alg _ m _ _ hwhole]

/-- Settles O28: HASH_FINAL emits the digest of its chaining state, which after a stream is that of the
whole message. -/
theorem streamingEqualsOneShot : Obligations.StreamingEqualsOneShot := by
  intro alg r s t m hstream hchain hbits hexec hok msg
  obtain ⟨-, rfl⟩ := (CommandBody.hashFinal alg).of_exec_ok hexec hok
  have h : Digested s (hashFinalBody alg s) alg (s.finalChain alg) s.finalBits := State.digested_of_emit_ok hok
  rw [hstream.finalChain hchain hbits, hstream.finalBits hbits] at h
  exact ⟨h.chain, h.msgBits, h.bufWritten⟩

end Sys2Proof.Machine
end

section
/-! The MAC commands: HMAC's key, its two hashes and what it leaves, and that CT_CMP is byte-string equality
(44_mac.md R270 to R281). -/

namespace Sys2Proof.Machine

open Sys2Proof

/-! ### The HMAC key -/

/-- A digest is shorter than a block. -/
theorem digestLen_le_block (alg : Alg) : digestLen alg ≤ 64 := by cases alg <;> decide

theorem hmacKey_of_le {alg : Alg} {k : Bytes} (h : k.length ≤ 64) : hmacKey alg k = k := if_neg (Nat.not_lt.mpr h)

theorem hmacKey_of_gt {alg : Alg} {k : Bytes} (h : 64 < k.length) : hmacKey alg k = hashFn alg k := if_pos h

theorem hmacKey_length_le (alg : Alg) (k : Bytes) : (hmacKey alg k).length ≤ 64 := by
  rcases Nat.lt_or_ge 64 k.length with hlong | hshort
  · rw [hmacKey_of_gt hlong, hashFn_length]
    exact digestLen_le_block alg
  · rwa [hmacKey_of_le hshort]

/-- What enters K0 is short enough to enter it unchanged. -/
theorem hmacKey_hmacKey (alg : Alg) (k : Bytes) : hmacKey alg (hmacKey alg k) = hmacKey alg k :=
  hmacKey_of_le (hmacKey_length_le alg k)

/-! ### K0 -/

theorem hmacK0_of_le {alg : Alg} {k : Bytes} (h : k.length ≤ 64) : hmacK0 alg k = k ++ zeros (64 - k.length) := by
  rw [hmacK0, hmacKey_of_le h]

theorem hmacK0_of_gt {alg : Alg} {k : Bytes} (h : 64 < k.length) :
    hmacK0 alg k = hashFn alg k ++ zeros (64 - digestLen alg) := by
  rw [hmacK0, hmacKey_of_gt h, hashFn_length]

theorem hmacK0_length (alg : Alg) (k : Bytes) : (hmacK0 alg k).length = 64 := by
  rw [hmacK0, List.length_append, zeros_length]
  exact Nat.add_sub_cancel' (hmacKey_length_le alg k)

theorem hmacK0_hmacKey (alg : Alg) (k : Bytes) : hmacK0 alg (hmacKey alg k) = hmacK0 alg k := by
  rw [hmacK0, hmacKey_hmacKey, hmacK0]

/-- Zero bytes at the end of a short key stand where K0 has zero bytes anyway. -/
theorem hmacK0_append_zeros {alg : Alg} {k : Bytes} {z : Nat} (h : k.length + z ≤ 64) :
    hmacK0 alg (k ++ zeros z) = hmacK0 alg k := by
  have hlen : (k ++ zeros z).length = k.length + z := by rw [List.length_append, zeros_length]
  have hfill : z + (64 - (k.length + z)) = 64 - k.length := by omega
  rw [hmacK0_of_le (hlen.trans_le h), hmacK0_of_le (Nat.le_of_add_right_le h), hlen, List.append_assoc, zeros, zeros,
    List.replicate_append_replicate, hfill, zeros]

/-- The MAC depends on the key through K0 only. -/
theorem hmacFn_eq_of_hmacK0_eq {alg : Alg} {k k' : Bytes} (h : hmacK0 alg k = hmacK0 alg k') (m : Bytes) :
    hmacFn alg k m = hmacFn alg k' m := by
  simp only [hmacFn, hmacOuter, hmacPad, h]

/-- Settles O30: the rows of R272's table are those of K0, and keys with one K0 have one MAC. -/
theorem hmacKeyLengthCases : Obligations.HmacKeyLengthCases := by
  refine fun alg k m => ⟨hmacK0_of_le, hmacK0_of_gt, hmacK0_length alg k, fun hlong => ?_, fun z hz => ?_⟩
  · rw [← hmacKey_of_gt hlong]
    exact hmacFn_eq_of_hmacK0_eq (hmacK0_hmacKey alg k).symm m
  · exact hmacFn_eq_of_hmacK0_eq (hmacK0_append_zeros hz) m

/-! ### HMAC -/

theorem operandsOf_hmacOf (alg : Alg) : operandsOf (hmacOf alg) = [.src0, .src1, .dst] := by cases alg <;> rfl

theorem exec_hmacOf {alg : Alg} {s : State} (h0 : s.src0Fits) (h1 : s.src1Fits) (hd : s.dstFits) :
    exec (hmacOf alg) s = .next (hmacBody alg s) :=
  (CommandBody.hmac alg).exec_eq_body ((s.operandsOk_iff _).mpr ⟨fun _ => h0, fun _ => h1, fun _ => hd⟩)

theorem hmacBody_digested {alg : Alg} {s : State} (hroom : digestLen alg ≤ s.dstCap.toNat) :
    Digested s (hmacBody alg s) alg (hashChain alg (hmacOuter alg s.src0Bytes s.src1Bytes))
      (BitVec.ofNat 64 (8 * (64 + digestLen alg))) :=
  State.emit_digested hroom _ _

/-- The bits of the outer hash's message, `opad ++ inner` (44_mac.md R273). -/
theorem hmacBits_toNat (alg : Alg) :
    (BitVec.ofNat 64 (8 * (64 + digestLen alg))).toNat = 8 * (64 + digestLen alg) := by
  cases alg <;> rfl

/-- Settles O29: HMAC emits the digest of the outer hash's chaining state, and the model's K0 and outer message are
those of R271. -/
theorem hmacCompletes : Obligations.HmacCompletes := by
  intro alg s h0 h1 hd hroom key msg key' k0 inner outer
  have hkey : key' = hmacKey alg s.src0Bytes := by
    rw [hmacKey, s.src0Bytes_length]
    rfl
  have hk0 : k0 = hmacK0 alg s.src0Bytes := by
    rw [hmacK0, ← hkey]
    rfl
  have houter : outer = hmacOuter alg s.src0Bytes s.src1Bytes := by
    rw [hmacOuter, hmacPad, hmacPad, ← hk0]
    rfl
  have h : Digested s (hmacBody alg s) alg (hashChain alg outer) (BitVec.ofNat 64 (8 * (64 + digestLen alg))) :=
    houter ▸ hmacBody_digested hroom
  refine ⟨_, exec_hmacOf h0 h1 hd, h.completed, h.frame, h.resultEq, ?_, hashFn_length alg _, h.chain, ?_, ?_,
    hashFn_length alg outer, h.bufWritten⟩
  · rw [hk0, hmacK0_length]
  · rw [h.msgBits, hmacBits_toNat]
  · rw [h.chain, hashFn]

/-! ### CT_CMP -/

/-- One byte of the comparison leaves the accumulator 0 only when nothing differed before it and nothing does here. -/
theorem byte_or_xor_eq_zero_iff (acc a b : Byte) : acc ||| (a ^^^ b) = 0 ↔ acc = 0 ∧ a = b :=
  BitVec.or_eq_zero_iff.trans (and_congr_right' BitVec.xor_eq_zero_iff)

/-- The accumulator stays 0 over two strings of one length exactly when they agree in every byte: an OR never clears
a bit that a difference has set (44_mac.md R282). -/
theorem ctFold_eq_zero_iff {a b : Bytes} (hlen : a.length = b.length) (acc : Byte) :
    (a.zip b).foldl (fun acc p => acc ||| (p.1 ^^^ p.2)) acc = 0 ↔ acc = 0 ∧ a = b := by
  induction a generalizing b acc with
  | nil =>
    obtain rfl : b = [] := List.length_eq_zero_iff.mp hlen.symm
    simp
  | cons x a ih =>
    cases b with
    | nil => cases hlen
    | cons y b =>
      rw [List.zip_cons_cons, List.foldl_cons, ih (Nat.succ.inj hlen), byte_or_xor_eq_zero_iff, List.cons.injEq,
        and_assoc]

theorem ctAccumulate_eq_zero_iff {a b : Bytes} (hlen : a.length = b.length) : ctAccumulate a b = 0 ↔ a = b := by
  rw [ctAccumulate, ctFold_eq_zero_iff hlen, and_iff_right rfl]

theorem Memory.readBytes_eq_readBytes_iff (m : Memory) (a b n : Nat) :
    m.readBytes a n = m.readBytes b n ↔ ∀ i, i < n → m.read (a + i) = m.read (b + i) := by
  rw [Memory.readBytes, Memory.readBytes, List.map_inj_left]
  simp only [List.mem_range]

/-- The verdict is equality of the two source strings, with their lengths. -/
theorem State.ctEqual_iff (s : State) : s.ctEqual = true ↔ s.src0Len = s.src1Len ∧
    ∀ i, i < s.src0Len.toNat → s.buf.read (s.src0Addr.toNat + i) = s.buf.read (s.src1Addr.toNat + i) := by
  rw [State.ctEqual]
  split
  case isTrue hne => exact iff_of_false Bool.false_ne_true fun h => hne h.1
  case isFalse hlen =>
    have hlen : s.src0Len = s.src1Len := not_not.mp hlen
    have hbytes : s.src0Bytes.length = s.src1Bytes.length := by rw [s.src0Bytes_length, s.src1Bytes_length, hlen]
    rw [decide_eq_true_iff, ctAccumulate_eq_zero_iff hbytes, State.src0Bytes, State.src1Bytes, ← hlen,
      Memory.readBytes_eq_readBytes_iff, and_iff_right rfl]

theorem exec_ctCmp {s : State} (h0 : s.src0Fits) (h1 : s.src1Fits) : exec .ctCmp s = .next (ctCmpBody s) :=
  CommandBody.ctCmp.exec_eq_body <| (s.operandsOk_iff _).mpr
    ⟨fun _ => h0, fun _ => h1, fun hd => absurd hd (by decide)⟩

/-- Settles O31: the bit CT_CMP stores is the comparator's verdict. -/
theorem ctCmpIsByteEquality : Obligations.CtCmpIsByteEquality :=
  fun s h0 h1 => ⟨s.ctEqual, exec_ctCmp h0 h1, s.ctEqual_iff⟩

end Sys2Proof.Machine
end

section
/-! Errors and interrupts: the codes each command can report, the irq wire, an idle engine, and a CMD write that races a
completion (60_exceptions.md R301 to R329). -/

namespace Sys2Proof.Machine

open Sys2Proof

/-! ### The codes a command can report -/

/-- The table of 60_exceptions.md R301: `CanReport i e` says that command i can complete with code e. RANGE needs an
operand to check, and every command that has one has the first source; DST_OVF needs a destination. -/
inductive CanReport : Instr → ErrCode → Prop where
  | ok (i : Instr) : CanReport i .ok
  | range {i : Instr} : Operand.src0 ∈ operandsOf i → CanReport i .range
  | length (alg : Alg) : CanReport (hashBlockOf alg) .length
  | decode {i : Instr} : i ∈ [Instr.hexDec, .b64Dec] → CanReport i .decode
  | dstOvf {i : Instr} : Operand.dst ∈ operandsOf i → CanReport i .dstOvf

theorem hashBlockOf_mem (alg : Alg) : hashBlockOf alg ∈ [Instr.hashBlockSha256, .hashBlockSha1, .hashBlockMd5] := by
  cases alg <;> decide

theorem dst_mem_operandsOf_hmacOf (alg : Alg) : Operand.dst ∈ operandsOf (hmacOf alg) := by
  cases alg <;> decide

theorem CanReport.of_emit {i : Instr} (hdst : Operand.dst ∈ operandsOf i) (s : State) (out : Bytes) (staged : State) :
    CanReport i (s.emit out staged).errCode := by
  rcases s.emit_errCode out staged with e | e <;> rw [e]
  · exact .ok i
  · exact .dstOvf hdst

theorem CanReport.of_emitDecoded {i : Instr} (hdec : i ∈ [Instr.hexDec, .b64Dec]) (hdst : Operand.dst ∈ operandsOf i)
    (s : State) (o : Option Bytes) : CanReport i (s.emitDecoded o).errCode := by
  rcases s.emitDecoded_cases o with ⟨_, e⟩ | ⟨out, _, e⟩ <;> rw [e]
  · exact .decode hdec
  · exact .of_emit hdst s out s

theorem CanReport.of_hashBlockBody (alg : Alg) (s : State) :
    CanReport (hashBlockOf alg) (hashBlockBody alg s).errCode := by
  unfold hashBlockBody
  split
  · exact .ok _
  · exact .length alg

theorem CommandBody.canReport {s t : State} {i : Instr} (h : CommandBody s i t) : CanReport i t.errCode := by
  cases h
  case nop => exact .ok _
  case hashInit alg => exact .ok _
  case hashBlock alg => exact .of_hashBlockBody alg s
  case hashFinal alg => exact .of_emit (by rw [operandsOf_hashFinalOf]; decide) s _ _
  case hash alg => exact .of_emit (by rw [operandsOf_hashOf]; decide) s _ _
  case hmac alg => exact .of_emit (dst_mem_operandsOf_hmacOf alg) s _ _
  case ctCmp => exact .ok _
  case hexEnc => exact .of_emit (by decide) s _ s
  case hexEncSp => exact .of_emit (by decide) s _ s
  case hexDec => exact .of_emitDecoded (by decide) (by decide) s _
  case b64Enc => exact .of_emit (by decide) s _ s
  case b64Dec => exact .of_emitDecoded (by decide) (by decide) s _

theorem src0_mem_operandsOf_of_mem (i : Instr) : ∀ o ∈ operandsOf i, Operand.src0 ∈ operandsOf i := by
  cases i <;> decide

/-- A range check that fails has an operand to fail on. -/
theorem src0_mem_of_operandsOk_eq_false {s : State} {i : Instr} (h : s.operandsOk i = false) :
    Operand.src0 ∈ operandsOf i := by
  rcases (s.operandsOk_eq_false_iff i).mp h with ⟨hmem, _⟩ | ⟨hmem, _⟩ | ⟨hmem, _⟩
  all_goals exact src0_mem_operandsOf_of_mem i _ hmem

/-- The range check adds RANGE to what the body can report. -/
theorem exec_canReport {i : Instr} {s t : State} (hexec : exec i s = .next t) : CanReport i t.errCode := by
  obtain ⟨body, hbody⟩ := CommandBody.total i s
  obtain rfl : s.checked i body = t := Host.Outcome.next.inj (hbody.exec_eq.symm.trans hexec)
  rcases s.checked_cases i body with ⟨_, e⟩ | ⟨hfail, e⟩ <;> rw [e]
  · exact hbody.canReport
  · exact .range (src0_mem_of_operandsOk_eq_false hfail)

/-- Settles O15: the table is `CanReport`, read one code at a time. -/
theorem errorCodesPerCommand : Obligations.ErrorCodesPerCommand := by
  intro i s t hexec
  have h := exec_canReport hexec
  refine ⟨fun e => ?_, fun e => ?_, fun e => ?_, fun e => ?_, fun e => ?_⟩ <;> rw [e] at h
  · cases h
  · cases h with | range hsrc0 => exact (src0_mem_operandsOf_iff i).mp hsrc0
  · cases h with | length alg => exact hashBlockOf_mem alg
  · cases h with | decode hdec => exact hdec
  · cases h with | dstOvf hdst => exact (dst_mem_operandsOf_iff i).mp hdst

/-! ### The irq wire -/

theorem State.irq_of_done {s : State} (h : s.done = true) : s.irq = s.irqEn := by
  rw [State.irq, h, Bool.true_and]

theorem State.irq_of_not_done {s : State} (h : s.done = false) : s.irq = false := by
  rw [State.irq, h, Bool.false_and]

/-- Every completion, a success or an error, sets DONE and keeps IRQ_EN. -/
theorem engineStep_done_irqEn {s t : State} (hstep : engineStep s = .next t) : t.done = true ∧ t.irqEn = s.irqEn := by
  obtain ⟨u, hu, hres⟩ := engineStep_result s
  obtain rfl : u = t := Host.Outcome.next.inj (hu.symm.trans hstep)
  obtain ⟨-, hdone⟩ := hres.idle_done
  exact ⟨hdone, hres.frame.irqEn⟩

theorem engineStep_irq {s t : State} (hstep : engineStep s = .next t) : t.irq = s.irqEn := by
  obtain ⟨hdone, hirqEn⟩ := engineStep_done_irqEn hstep
  rw [State.irq_of_done hdone, hirqEn]

theorem State.softReset_irq (s : State) : s.softReset.irq = false := by
  obtain ⟨-, -, -, hirq, -⟩ := s.softReset_readsAsReset
  exact hirq

theorem State.statusWrite_done_of_bit1 {w : Word} (hw : w.getLsbD 1 = true) (s : State) :
    (s.statusWrite w).done = false := by
  rw [State.statusWrite, hw, Bool.not_true, Bool.and_false]

/-- Settles O55: DONE decides irq after an ENGINE step, an acknowledge and an accept; a soft reset clears it. -/
theorem irqFollowsDone : Obligations.IrqFollowsDone := by
  refine ⟨rfl, fun s => ⟨rfl, fun t => engineStep_irq, ?_, fun hidle w => ?_, fun w hw => ?_⟩⟩
  · exact ⟨_, s.transact_wr32_status 2, State.irq_of_not_done (State.statusWrite_done_of_bit1 (by decide) s)⟩
  · exact ⟨s.accept w, State.transact_wr32_idle_at hidle .cmd rfl rfl, State.irq_of_not_done (s.accept_done w)⟩
  · exact ⟨s.softReset, by rw [State.transact_wr32_ctrl, State.ctrlWrite_of_srst hw], s.softReset_irq⟩

/-- A CTRL write without a reset sets IRQ_EN, so irq is then DONE under the enable just written; DONE stays
(60_exceptions.md R311). -/
theorem State.transact_wr32_ctrl_irq (s : State) {w : Word} (hw : w.getLsbD 1 = false) :
    ∃ t, s.transact (.wr32 0x0008 w) = (t, .okayWrite) ∧ t.irq = (s.done && w.getLsbD 0) ∧ t.done = s.done := by
  refine ⟨{ s with irqEn := w.getLsbD 0 }, ?_, rfl, rfl⟩
  rw [State.transact_wr32_ctrl, State.ctrlWrite_of_not_srst hw]

/-- Settles O56: each clause reads irq off the CTRL write, the last one in the state the completion leaves. -/
theorem irqEnableActsAtOnce : Obligations.IrqEnableActsAtOnce := by
  intro s w hw
  refine ⟨fun hdone hset => ?_, fun hclear => ?_, fun hoff hset t hstep => ?_⟩
  · obtain ⟨t, ht, hirq, hkeep⟩ := s.transact_wr32_ctrl_irq hw
    exact ⟨t, ht, by rw [hirq, hdone, hset, Bool.and_self], hkeep.trans hdone⟩
  · obtain ⟨t, ht, hirq, hkeep⟩ := s.transact_wr32_ctrl_irq hw
    exact ⟨t, ht, by rw [hirq, hclear, Bool.and_false], hkeep⟩
  · obtain ⟨hdone, -⟩ := engineStep_done_irqEn hstep
    obtain ⟨u, hu, hirq, -⟩ := t.transact_wr32_ctrl_irq hw
    exact ⟨hdone, (engineStep_irq hstep).trans hoff, u, hu, by rw [hirq, hdone, hset, Bool.and_self]⟩

/-! ### The host's turn -/

/-- Settles O9: neither agent can move. -/
theorem idlenessChangesNothing : Obligations.IdlenessChangesNothing := by
  intro s hidle hhost
  rcases step_cases s with ⟨hbusy, _⟩ | ⟨hne, _⟩ | ⟨_, _, e⟩
  · cases hidle.symm.trans hbusy
  · exact absurd hhost hne
  · exact e

theorem step_of_host_turn {s : State} (h : s.nextAgent = some .host) : step s = .next (hostStep s.takeTurn) := by
  simp only [step, transition, h]

/-- With no command pending, a host that has an item left moves, and the schedule is kept. -/
theorem step_of_idle_host {s : State} (hidle : s.busy = false) (hhost : s.host ≠ []) : step s = .next (hostStep s) := by
  have hc : s.contested = false := by simp [State.contested, hidle]
  have hnext : s.nextAgent = some .host := by simp [State.nextAgent, hc, hidle, hhost]
  have hturn : s.takeTurn = s := by simp [State.takeTurn, hc]
  rw [step_of_host_turn hnext, hturn]

/-- The host moves against a pending command when the schedule says so, and the turn is used up. -/
theorem step_of_host_before_engine {s : State} {ts : List Agent} (hbusy : s.busy = true) (hhost : s.host ≠ [])
    (hturns : s.turns = .host :: ts) : step s = .next (hostStep { s with turns := ts }) := by
  have hc := State.contested_of_host_ne_nil hbusy hhost
  have hnext : s.nextAgent = some .host := by simp only [State.nextAgent, hc, if_true, hturns, List.headD_cons]
  have hturn : s.takeTurn = { s with turns := ts } := by
    rw [State.takeTurn, if_pos hc, hturns, List.tail_cons]
  rw [step_of_host_turn hnext, hturn]

/-- The host's item is taken off its program, performed, and answered. -/
theorem hostStep_of_txn {s u : State} {x : Txn} {rest : List HostItem} {r : Reply} (hhost : s.host = .txn x :: rest)
    (hx : ({ s with host := rest } : State).transact x = (u, r)) : hostStep s = u.addReply r := by
  simp only [hostStep, hhost, State.issue, hx]

theorem hostStep_cmdWrite_idle {s : State} {w : Word} {rest : List HostItem} (hidle : s.busy = false)
    (hhost : s.host = .txn (.wr32 0x0010 w) :: rest) :
    hostStep s = (({ s with host := rest } : State).accept w).addReply .okayWrite :=
  hostStep_of_txn hhost ((cmdWriteAccepts { s with host := rest } w).1 hidle)

theorem hostStep_cmdWrite_busy {s : State} {w : Word} {rest : List HostItem} (hbusy : s.busy = true)
    (hhost : s.host = .txn (.wr32 0x0010 w) :: rest) :
    hostStep s = ({ s with host := rest } : State).setOvr.addReply .okayWrite :=
  hostStep_of_txn hhost ((cmdWriteAccepts { s with host := rest } w).2 hbusy)

/-- Settles O10: the CMD write on either side of the completion, which leaves the host and OVR alone. -/
theorem cmdWriteRacesTheCompletion : Obligations.CmdWriteRacesTheCompletion := by
  intro s w rest i hbusy hdec hhost
  have hne : s.host ≠ [] := by rw [hhost]; exact List.cons_ne_nil _ _
  refine ⟨fun ts hturns => ?_, fun hturns => ?_⟩
  · rw [step_of_host_before_engine hbusy hne hturns,
      hostStep_cmdWrite_busy (s := { s with turns := ts }) hbusy hhost, State.addReply, State.setOvr]
  · obtain ⟨t, ht, hres⟩ := exec_result i { s with turns := s.turns.tail }
    obtain ⟨hidle, -⟩ := hres.idle_done
    have hthost : t.host = .txn (.wr32 0x0010 w) :: rest := hres.frame.host.trans hhost
    obtain ⟨-, hrun⟩ := stepRunsDecodedCommand s i hbusy hdec
    have hstep : step s = .next t := (hrun hne hturns).trans ht
    have hnext : step t = .next ((({ t with host := rest } : State).accept w).addReply .okayWrite) := by
      rw [step_of_idle_host hidle (by rw [hthost]; exact List.cons_ne_nil _ _), hostStep_cmdWrite_idle hidle hthost]
    exact ⟨t, _, hstep, ht, hnext, rfl, rfl, rfl, hres.frame.ovr, rfl⟩

end Sys2Proof.Machine
end

section
/-! The soft reset of a busy engine, byte by byte, and the latency of CT_CMP (70_reset_and_hazards.md R343, R344, R372). -/

namespace Sys2Proof.Machine

open Sys2Proof

/-! ### The latency of CT_CMP -/

theorem State.latency_pos (s : State) (other : Nat) : 1 ≤ s.latency other := Nat.le_add_right 1 _

/-- 44_mac.md R283. -/
theorem State.latency_of_ctCmp {s : State} (hcmd : s.cmd = encode .ctCmp) (other : Nat) :
    s.latency other = 1 + Config.latCtCmp s.src0Len s.src1Len := by
  rw [State.latency, if_pos ((decodeEncodeAgree s.cmd .ctCmp).mpr hcmd)]

/-- Settles O32: both latencies are the function of the two lengths. -/
theorem ctCmpLatencyIsConstantTime : Obligations.CtCmpLatencyIsConstantTime := by
  refine ⟨State.latency_pos, fun s t other other' hs ht hlen0 hlen1 => ?_⟩
  rw [State.latency_of_ctCmp hs, State.latency_of_ctCmp ht, hlen0, hlen1]

/-! ### Which pending commands an abort draws for -/

theorem State.pendingWritesDst_of_instr {s : State} {i : Instr} (hdec : decode s.cmd = .instr i) :
    s.pendingWritesDst = writesDst i := by
  rw [State.pendingWritesDst, hdec]

/-- A word that decodes to no command writes no destination (log entry 8). -/
theorem State.pendingWritesDst_eq_false {s : State} (h : ∀ i, decode s.cmd = .instr i → writesDst i = false) :
    s.pendingWritesDst = false := by
  cases hdec : decode s.cmd with
  | instr i => rw [State.pendingWritesDst_of_instr hdec, h i hdec]
  | illegal r => rw [State.pendingWritesDst, hdec]

theorem State.abort_of_not_pendingWritesDst {s : State} (h : s.pendingWritesDst = false) : s.abort = s := by
  rcases s.abort_cases with ⟨-, e⟩ | ⟨htrue, -⟩
  · exact e
  · cases h.symm.trans htrue

theorem State.abort_buf_of_pendingWritesDst {s : State} (h : s.pendingWritesDst = true) :
    s.abort.buf = s.buf.writeBytes s.dstAddr.toNat (s.abortRange.map (Config.abortByte s.draws)) := by
  rcases s.abort_cases with ⟨hfalse, -⟩ | ⟨-, e⟩
  · cases h.symm.trans hfalse
  · rw [e]

/-! ### The bytes after an abort -/

/-- The byte drawn at an offset into the clipped destination range is the draw of its BUF index. -/
theorem State.abortRange_draw_getD (s : State) (draw : Nat → Byte) {k : Nat} (hk : k < s.abortRange.length) :
    (s.abortRange.map draw).getD k 0 = draw (s.dstAddr.toNat + k) := by
  rw [List.getD_eq_getElem _ _ (by rwa [List.length_map])]
  simp [State.abortRange]

/-- A byte inside the destination range and inside BUF is drawn; a byte past either end, or of a range that begins past
the end of BUF, is kept. -/
theorem State.abort_read_of_pendingWritesDst {s : State} (h : s.pendingWritesDst = true) (a : Nat) :
    s.abort.buf.read a =
      if s.dstAddr.toNat ≤ a ∧ a < s.dstAddr.toNat + s.dstCap.toNat ∧ a < s.bufSize
      then Config.abortByte s.draws a else s.buf.read a := by
  have hlen := s.abortRange_length
  rw [State.abort_buf_of_pendingWritesDst h]
  split
  next hin =>
    obtain ⟨hlow, hcap, hsize⟩ := hin
    obtain ⟨k, rfl⟩ := Nat.exists_eq_add_of_le hlow
    have hk : k < s.abortRange.length := by omega
    rw [Memory.read_writeBytes_inside _ _ _ k (by rwa [List.length_map]), s.abortRange_draw_getD _ hk]
  next hout =>
    exact Memory.read_writeBytes_outside _ _ _ _ (by rw [List.length_map]; omega)

theorem State.softReset_buf_of_busy {s : State} (hbusy : s.busy = true) : s.softReset.buf = s.abort.buf := by
  rw [State.softReset, if_pos hbusy, State.clearRegisters_buf]

/-- Settles O58: the registers are those of every soft reset, and BUF is what the abort leaves. -/
theorem abortDrawsTheDestination : Obligations.AbortDrawsTheDestination := by
  intro s w hbusy hw
  refine ⟨s.softReset, by rw [State.transact_wr32_ctrl, State.ctrlWrite_of_srst hw], rfl, rfl, s.softReset_irq,
    rfl, rfl, rfl, rfl, fun ⟨i, hdec, hdst⟩ a => ?_, fun hno => ?_⟩
  · rw [State.softReset_buf_of_busy hbusy,
      State.abort_read_of_pendingWritesDst ((State.pendingWritesDst_of_instr hdec).trans hdst)]
  · rw [State.softReset_buf_of_busy hbusy,
      State.abort_of_not_pendingWritesDst (State.pendingWritesDst_eq_false hno)]

end Sys2Proof.Machine
end
